-- ==== Sys2Proof/Word.lean ====
section
/-! DEFINITION. The word types of the core: nothing in this hardware is signed (00_scope.md R8). -/

namespace Sys2Proof

/-- One byte of the stream (00_scope.md R8). -/
abbrev Byte := BitVec 8

/-- The 32-bit word of the datapath; `+` wraps modulo 2^32 (00_scope.md R9, 40_word_functions.md R66). -/
abbrev Word := BitVec 32

/-- A 64-bit command word, and the type of the length counter (30_encoding.md R50, 00_scope.md R8). -/
abbrev Word64 := BitVec 64

/-- One exact 64-byte block (00_scope.md R6). -/
abbrev Block := Vector Byte 64

/-- Eight words: the hash state, the initial value and the digest (00_scope.md R6). -/
abbrev Hash := Vector Word 8

end Sys2Proof
end

