-- ==== Sys2Proof/Syntax.lean ====
section
/-! DEFINITION. The commands of the core, one constructor per row of spec/opcode_table.json (30_encoding.md R56), and
the reasons a word is no command. -/

namespace Sys2Proof

/-- A command of the core (30_encoding.md R56). Ignored bits are no part of a command: two words that differ only
there are the same command (R59). -/
inductive Instr where
  /-- `NOP`, opcode 0 (43_accumulator.md R92). -/
  | nop
  /-- `INIT`, opcode 1 (43_accumulator.md R93). -/
  | init
  /-- `UPDATE`, opcode 2, with the `NB` stream bytes it carries, lane 0 first (30_encoding.md R55). -/
  | update (bytes : List Byte)
  /-- `FINALIZE`, opcode 3 (44_finalizer.md R102). -/
  | finalize
deriving DecidableEq, Repr

/-- Why a word decodes to no command (30_encoding.md R58). -/
inductive Illegal where
  /-- `OP` is 4 to 15 (R57). -/
  | illegalOpcode
  /-- A reserved bit is set, or `NB` is not zero outside UPDATE (R52, R53). -/
  | reservedBits
  /-- UPDATE with `NB` 5, 6 or 7 (R53). -/
  | badLength
deriving DecidableEq, Repr

end Sys2Proof
end

