-- ==== Sys2Proof/WellFormed.lean ====
section
/-! DEFINITION. Which terms of Instr are commands: an UPDATE carries 0 to 4 bytes (30_encoding.md R53). -/

namespace Sys2Proof

/-- The instruction is one that a command word can carry. -/
def Instr.wellFormed : Instr → Bool
  | .nop => true
  | .init => true
  | .update bytes => bytes.length ≤ 4
  | .finalize => true

end Sys2Proof
end

