-- ==== Sys2Proof/Decode.lean ====
section
/-! DEFINITION. The decoder, total on all 2^64 words, and the encoder (30_encoding.md R50 to R59). -/

namespace Sys2Proof

/-- `OP = w[63:60]` (30_encoding.md R51). -/
def opField (w : Word64) : BitVec 4 := w.extractLsb' 60 4

/-- `RSV = w[59:35]` (30_encoding.md R52). -/
def rsvField (w : Word64) : BitVec 25 := w.extractLsb' 35 25

/-- `NB = w[34:32]` (30_encoding.md R53). -/
def nbField (w : Word64) : BitVec 3 := w.extractLsb' 32 3

/-- `DATA = w[31:0]` (30_encoding.md R54). -/
def dataField (w : Word64) : Word := w.extractLsb' 0 32

/-- The four lanes of DATA, lane 0 first: lane `k` is `DATA[31-8k : 24-8k]` (30_encoding.md R54). -/
def lanes (d : Word) : List Byte :=
  [d.extractLsb' 24 8, d.extractLsb' 16 8, d.extractLsb' 8 8, d.extractLsb' 0 8]

/-- `bytes(w) = take(NB, lanes(w))` (30_encoding.md R55). -/
def carriedBytes (w : Word64) : List Byte := (lanes (dataField w)).take (nbField w).toNat

/-- The decoder of 30_encoding.md R58, its tests in the order of the rule. -/
def decode (w : Word64) : Except Illegal Instr :=
  if 4 ≤ (opField w).toNat then .error .illegalOpcode
  else if rsvField w ≠ 0 then .error .reservedBits
  else if opField w ≠ 2 ∧ nbField w ≠ 0 then .error .reservedBits
  else if opField w = 2 ∧ 4 < (nbField w).toNat then .error .badLength
  else if opField w = 0 then .ok .nop
  else if opField w = 1 then .ok .init
  else if opField w = 2 then .ok (.update (carriedBytes w))
  else .ok .finalize

/-- The opcode of an instruction (30_encoding.md R56). -/
def Instr.opcode : Instr → BitVec 4
  | .nop => 0
  | .init => 1
  | .update _ => 2
  | .finalize => 3

/-- The bytes an instruction carries: UPDATE's, none for the others. -/
def Instr.payload : Instr → List Byte
  | .nop => []
  | .init => []
  | .update bytes => bytes
  | .finalize => []

/-- DATA with the bytes in lanes 0, 1, 2, 3; a lane with no byte is written zero (30_encoding.md R54, R61). -/
def packLanes (bytes : List Byte) : Word :=
  bytes.getD 0 0 ++ bytes.getD 1 0 ++ bytes.getD 2 0 ++ bytes.getD 3 0

/-- The word of an instruction, ignored bits zero: `OP`, `RSV = 0`, `NB`, `DATA` (30_encoding.md R50, R56, R59). -/
def encode (i : Instr) : Word64 :=
  i.opcode ++ (0 : BitVec 25) ++ BitVec.ofNat 3 i.payload.length ++ packLanes i.payload

/-- What the decoder reads from an instruction whose bits are `w`, numbered as spec/opcode_table.json numbers them (one
64-bit word, bit 0 its least significant bit): the low `nbits` bits are `w`'s and every bit above is zero. A row of more
than 64 bits does not exist. -/
def decodeTableWord (nbits w : Nat) : Option Instr :=
  if 64 < nbits then none
  else
    match decode (BitVec.ofNat 64 (w % 2 ^ nbits)) with
    | .ok i => some i
    | .error _ => none

end Sys2Proof
end

