-- ==== Sys2Proof/Machine/Constants.lean ====
section
/-! DEFINITION. The two hardwired tables (40_word_functions.md R73 to R75): constants of the machine, no state. Their values
are the spec's, which marks them as from general knowledge (notes/assumptions/7.md). -/

namespace Sys2Proof.Machine

/-- The rows of R73's table, one 256-bit number per row: eight words, the word of column `+0` on top. -/
def roundConstantRows : List (BitVec 256) := [
  /-  0 -/ 0x428a2f98_71374491_b5c0fbcf_e9b5dba5_3956c25b_59f111f1_923f82a4_ab1c5ed5,
  /-  8 -/ 0xd807aa98_12835b01_243185be_550c7dc3_72be5d74_80deb1fe_9bdc06a7_c19bf174,
  /- 16 -/ 0xe49b69c1_efbe4786_0fc19dc6_240ca1cc_2de92c6f_4a7484aa_5cb0a9dc_76f988da,
  /- 24 -/ 0x983e5152_a831c66d_b00327c8_bf597fc7_c6e00bf3_d5a79147_06ca6351_14292967,
  /- 32 -/ 0x27b70a85_2e1b2138_4d2c6dfc_53380d13_650a7354_766a0abb_81c2c92e_92722c85,
  /- 40 -/ 0xa2bfe8a1_a81a664b_c24b8b70_c76c51a3_d192e819_d6990624_f40e3585_106aa070,
  /- 48 -/ 0x19a4c116_1e376c08_2748774c_34b0bcb5_391c0cb3_4ed8aa4a_5b9cca4f_682e6ff3,
  /- 56 -/ 0x748f82ee_78a5636f_84c87814_8cc70208_90befffa_a4506ceb_bef9a3f7_c67178f2]

/-- The eight words of a row, column `+0` first (R73). -/
def rowWords (row : BitVec 256) : List Word := (List.range 8).map fun j => row.extractLsb' (224 - 32 * j) 32

/-- `K[0..63]`, `K[0]` first: row label plus column is the index (R73). -/
def roundConstants : List Word := roundConstantRows.flatMap rowWords

/-- `IV[0..7]` (R74). -/
def initialHash : Hash := #v[
  0x6a09e667, 0xbb67ae85, 0x3c6ef372, 0xa54ff53a,
  0x510e527f, 0x9b05688c, 0x1f83d9ab, 0x5be0cd19]

end Sys2Proof.Machine
end

