-- ==== Sys2Proof/Machine/WordFunctions.lean ====
section
/-! DEFINITION. The 32-bit word functions (40_word_functions.md R64 to R72) and the byte-order primitives (00_scope.md R10).
The formulas and amounts are the spec's, which marks them as from general knowledge (notes/assumptions/7.md). -/

namespace Sys2Proof.Machine

/-- `ROTR^n(x) = (x >> n) | (x << (32 - n))` (R64). -/
def rotr (n : Nat) (x : Word) : Word := (x >>> n) ||| (x <<< (32 - n))

/-- `SHR^n(x) = x >> n`, zero-filled (R65). -/
def shr (n : Nat) (x : Word) : Word := x >>> n

/-- `Ch(x, y, z) = (x & y) ^ (~x & z)` (R67). -/
def ch (x y z : Word) : Word := (x &&& y) ^^^ (~~~x &&& z)

/-- `Maj(x, y, z) = (x & y) ^ (x & z) ^ (y & z)` (R68). -/
def maj (x y z : Word) : Word := (x &&& y) ^^^ (x &&& z) ^^^ (y &&& z)

/-- `Σ0(x) = ROTR^2(x) ^ ROTR^13(x) ^ ROTR^22(x)` (R69). -/
def bigSigma0 (x : Word) : Word := rotr 2 x ^^^ rotr 13 x ^^^ rotr 22 x

/-- `Σ1(x) = ROTR^6(x) ^ ROTR^11(x) ^ ROTR^25(x)` (R70). -/
def bigSigma1 (x : Word) : Word := rotr 6 x ^^^ rotr 11 x ^^^ rotr 25 x

/-- `σ0(x) = ROTR^7(x) ^ ROTR^18(x) ^ SHR^3(x)` (R71). -/
def smallSigma0 (x : Word) : Word := rotr 7 x ^^^ rotr 18 x ^^^ shr 3 x

/-- `σ1(x) = ROTR^17(x) ^ ROTR^19(x) ^ SHR^10(x)` (R72). -/
def smallSigma1 (x : Word) : Word := rotr 17 x ^^^ rotr 19 x ^^^ shr 10 x

/-- `be32(b0, b1, b2, b3)`: the first byte is the most significant (00_scope.md R10). -/
def be32 (b0 b1 b2 b3 : Byte) : Word :=
  (b0.setWidth 32 <<< 24) ||| (b1.setWidth 32 <<< 16) ||| (b2.setWidth 32 <<< 8) ||| b3.setWidth 32

/-- `be64bytes(v)`: byte `i` is `v[63-8i : 56-8i]` (00_scope.md R10). -/
def be64bytes (v : Word64) : Vector Byte 8 :=
  Vector.ofFn fun i => v.extractLsb' (56 - 8 * i.val) 8

end Sys2Proof.Machine
end

