-- ==== Sys2Proof/Machine/Schedule.lean ====
section
/-! DEFINITION. The message scheduler (41_message_scheduler.md R79 to R84). The schedule is computed afresh from the block
alone (R82, R84); it is scratch, no state (10_state.md R27, notes/assumptions/6.md). -/

namespace Sys2Proof.Machine

/-- `W[t]` for t = 0..15: the block's word `t`, big-endian (R80, 20_memory.md R37). -/
def blockWord (b : Block) (t : Fin 16) : Word :=
  be32 b[4 * t.val] b[4 * t.val + 1] b[4 * t.val + 2] b[4 * t.val + 3]

/-- `W[0..15]` (R80). -/
def blockWords (b : Block) : List Word := (List.finRange 16).map (blockWord b)

/-- `W[t] <- σ1(W[t-2]) + W[t-7] + σ0(W[t-15]) + W[t-16]`, appended to `W[0..t-1]` (R81). -/
def extendSchedule (ws : List Word) (t : Nat) : List Word :=
  ws ++ [smallSigma1 (ws.getD (t - 2) 0) + ws.getD (t - 7) 0 + smallSigma0 (ws.getD (t - 15) 0) + ws.getD (t - 16) 0]

/-- `SCHEDULE(B)`: `W[0..63]`, t = 16..63 in increasing order (R79, R81). -/
def schedule (b : Block) : List Word :=
  (List.range' 16 48).foldl extendSchedule (blockWords b)

end Sys2Proof.Machine
end

