-- ==== Sys2Proof/Machine/Compress.lean ====
section
/-! DEFINITION. The compression function (42_compression.md R85 to R91) as a function of the hash state and the block: it
reads and writes nothing else (R89). -/

namespace Sys2Proof.Machine

/-- The working variables `a..h`, alive inside one compression only (10_state.md R16, notes/assumptions/6.md). -/
structure Working where
  a : Word
  b : Word
  c : Word
  d : Word
  e : Word
  f : Word
  g : Word
  h : Word
deriving DecidableEq, Repr

/-- `(a, b, c, d, e, f, g, h) <- (H[0], ..., H[7])` (R85). -/
def loadWorking (hs : Hash) : Working where
  a := hs[0]
  b := hs[1]
  c := hs[2]
  d := hs[3]
  e := hs[4]
  f := hs[5]
  g := hs[6]
  h := hs[7]

/-- `ROUND(t)` with `k = K[t]` and `w = W[t]`: the eight assignments are simultaneous (R86). -/
def round (v : Working) (k w : Word) : Working :=
  let t1 := v.h + bigSigma1 v.e + ch v.e v.f v.g + k + w
  let t2 := bigSigma0 v.a + maj v.a v.b v.c
  { a := t1 + t2, b := v.a, c := v.b, d := v.c, e := v.d + t1, f := v.e, g := v.f, h := v.g }

/-- The rounds over pairs `(K[t], W[t])`, in order (R87). -/
def runRounds (kws : List (Word × Word)) (v : Working) : Working :=
  kws.foldl (fun v kw => round v kw.1 kw.2) v

/-- `H[i] <- H[i] + (a..h)` (R88). -/
def feedForward (hs : Hash) (v : Working) : Hash :=
  #v[hs[0] + v.a, hs[1] + v.b, hs[2] + v.c, hs[3] + v.d, hs[4] + v.e, hs[5] + v.f, hs[6] + v.g, hs[7] + v.h]

/-- `C(H, B)`: the `H` that `COMPRESS(B)` leaves when it starts from `H` (R90, R91). -/
def compress (hs : Hash) (b : Block) : Hash :=
  feedForward hs (runRounds (roundConstants.zip (schedule b)) (loadWorking hs))

end Sys2Proof.Machine
end

