-- ==== Sys2Proof/Config.lean ====
section
/-! DEFINITION. What the spec leaves open and the model holds as a free value. -/

namespace Sys2Proof

/-- FREE VALUE (notes/assumptions/4.md, DESIGN CHOICE, safe): the read data while `rst = 1` or the reset latency runs.
70_reset_and_hazards.md R136 says what the fields hold WHEN RESET ENDS and what `cmd_ready` is before that; no rule
says what the read port returns before that. The first argument is `State.freeIx`, the second the read address. -/
opaque Config.readInReset : Nat → BitVec 4 → Word

end Sys2Proof
end

