-- ==== Sys2Proof/Machine/State.lean ====
section
/-! DEFINITION. The core's state as plain data (10_state.md R13), the reasons a step can stop, and the state after reset
(10_state.md R34, 70_reset_and_hazards.md R136). -/

namespace Sys2Proof.Machine

/-- The session phase (10_state.md R20); the codes 5, 6 and 7 are never held by the core. -/
inductive Phase where
  /-- Code 0: no session exists (after reset). -/
  | idle
  /-- Code 1: INIT done, no UPDATE since. -/
  | fresh
  /-- Code 2: at least one UPDATE since INIT. -/
  | accum
  /-- Code 3: FINALIZE done, digest valid. -/
  | final
  /-- Code 4: a misuse or an illegal command ended the session. -/
  | error
deriving DecidableEq, Repr

/-- The cause code (60_exceptions.md R115); the codes 7 to 15 are never recorded (93_implementation_defined.md U13). -/
inductive Cause where
  /-- Code 0: no error since reset. -/
  | none
  /-- Code 1, misuse: UPDATE in FINAL. -/
  | updateAfterFinalize
  /-- Code 2, misuse: FINALIZE in FINAL. -/
  | finalizeTwice
  /-- Code 3, misuse: UPDATE or FINALIZE in IDLE or ERROR. -/
  | noSession
  /-- Code 4, illegal word: `OP >= 4`. -/
  | illegalOpcode
  /-- Code 5, illegal word: reserved bits, or `NB` outside UPDATE. -/
  | reservedBits
  /-- Code 6, illegal word: UPDATE with `NB >= 5`. -/
  | badLength
deriving DecidableEq, Repr

/-- The command port's position in the handshake (10_state.md R33, 70_reset_and_hazards.md R136, R141). It holds BUSY:
BUSY = 1 exactly in `executing`; `cmd_ready = 1` exactly in `ready`. -/
inductive CmdPort where
  /-- BUSY = 0, `cmd_ready = 1`. -/
  | ready
  /-- BUSY = 1: this word is accepted and not yet complete; none of its writes has taken effect (R33). -/
  | executing (w : Word64)
  /-- `rst = 1`, or `LAT_RESET` cycles have not yet gone by: `cmd_ready = 0` (R136). -/
  | inReset
deriving DecidableEq, Repr

/-- One thing the host does at the ports (70_reset_and_hazards.md R136, R141). The list of them in `State.host` is the
model's own, DESIGN CHOICE (notes/assumptions/1.md). -/
inductive HostInput where
  /-- The host presents `w`, and the step is the complete execution of it (00_scope.md R12). -/
  | command (w : Word64)
  /-- The host presents `w`, and the step ends in the cycle that accepts it: BUSY = 1, nothing executed yet (R33). -/
  | accept (w : Word64)
  /-- Cycles in which the host presents no word: a command in progress completes; otherwise nothing changes (R145). -/
  | wait
  /-- The host asserts `rst` (R136, R137). -/
  | reset
deriving DecidableEq, Repr

/-- The core's state. Every field down to `port` is the spec's (10_state.md R13); `host` and `freeIx` are the model's. -/
structure State where
  /-- PHASE (R20). -/
  phase : Phase
  /-- H[0..7] (R15). -/
  h : Hash
  /-- BUF[0..63] (R21). -/
  buf : Vector Byte 64
  /-- PEND, 0..63 between steps (R22). -/
  pend : Fin 64
  /-- LEN (R23). -/
  len : Word64
  /-- DIGEST[0..7] (R24). -/
  digest : Hash
  /-- DV (R24). -/
  dv : Bool
  /-- ERR_MISUSE, sticky (R25). -/
  errMisuse : Bool
  /-- ERR_ILLEGAL, sticky (R25). -/
  errIllegal : Bool
  /-- CAUSE (R26). -/
  cause : Cause
  /-- BUSY and the word in execution (R33, R17). -/
  port : CmdPort
  /-- What the host does next, oldest first (the model's own field, notes/assumptions/1.md). -/
  host : List HostInput
  /-- Counts the assertions of reset: the argument of the free value `Config.readInReset` (the model's own field,
  notes/assumptions/4.md). -/
  freeIx : Nat
deriving DecidableEq, Repr

/-- NO FAULT EXISTS: nothing in the spec stops the core. A misuse or an illegal word takes error entry, which is a next
state (60_exceptions.md R121), and data never errs (R134). So no step answers a fault; see notes/assumptions/8.md (safe). -/
inductive Fault where
deriving DecidableEq, Repr

/-- The reasons a step has no meaning. -/
inductive Refusal where
  /-- Raised by an arm of `exec` whose instruction has no meaning yet. Every instruction has one, so nobody raises it.
  Safe. -/
  | notModelled (mnemonic : String)
deriving DecidableEq, Repr

/-- The machine right after reset (10_state.md R34, 70_reset_and_hazards.md R136): every field of the spec zero, PHASE
IDLE, BUSY 0. The host has nothing to do yet and no reset has been counted (notes/assumptions/1.md, 4.md). -/
def State.reset : State where
  phase := .idle
  h := Vector.replicate 8 0
  buf := Vector.replicate 64 0
  pend := 0
  len := 0
  digest := Vector.replicate 8 0
  dv := false
  errMisuse := false
  errIllegal := false
  cause := .none
  port := .ready
  host := []
  freeIx := 0

end Sys2Proof.Machine
end

