-- ==== Sys2Proof/Machine/Ops.lean ====
section
/-! DEFINITION. The named operations on the state: each writes the fields its docstring names and nothing else. Error entry,
the one exception of this core, is `State.raiseError`; the return from it is INIT (60_exceptions.md R125). -/

namespace Sys2Proof.Machine

/-- `BufWrite(i, b)`: `BUF[i] <- b` (00_scope.md R11). -/
def State.bufWrite (s : State) (i : Fin 64) (b : Byte) : State := { s with buf := s.buf.set i.val b i.isLt }

/-- `PEND <- p` (10_state.md R22). -/
def State.setPend (s : State) (p : Fin 64) : State := { s with pend := p }

/-- `PHASE <- p` (10_state.md R20). -/
def State.setPhase (s : State) (p : Phase) : State := { s with phase := p }

/-- `COMPRESS(b)`: `H <- C(H, b)` (42_compression.md R90). -/
def State.compressBlock (s : State) (b : Block) : State := { s with h := compress s.h b }

/-- `LEN <- (LEN + n) mod 2^64` (43_accumulator.md R96). -/
def State.addLen (s : State) (n : Nat) : State := { s with len := s.len + BitVec.ofNat 64 n }

/-- The writes of INIT: `H <- IV`, `PEND <- 0`, `LEN <- 0`, `DV <- 0`, `PHASE <- FRESH` (43_accumulator.md R93). -/
def State.openSession (s : State) : State :=
  { s with h := initialHash, pend := 0, len := 0, dv := false, phase := .fresh }

/-- `DIGEST[i] <- H[i]` for i = 0..7 and `DV <- 1` (44_finalizer.md R107). -/
def State.latchDigest (s : State) : State := { s with digest := s.h, dv := true }

/-- The cause is one of the misuse causes 1, 2 and 3 (60_exceptions.md R114, R115). -/
def Cause.isMisuse : Cause → Bool
  | .none => false
  | .updateAfterFinalize => true
  | .finalizeTwice => true
  | .noSession => true
  | .illegalOpcode => false
  | .reservedBits => false
  | .badLength => false

/-- The cause is one of the illegal-word causes 4, 5 and 6 (60_exceptions.md R114, R115). -/
def Cause.isIllegal : Cause → Bool
  | .none => false
  | .updateAfterFinalize => false
  | .finalizeTwice => false
  | .noSession => false
  | .illegalOpcode => true
  | .reservedBits => true
  | .badLength => true

/-- The cause code of a word that is no command (30_encoding.md R58). -/
def causeOfIllegal : Illegal → Cause
  | .illegalOpcode => .illegalOpcode
  | .reservedBits => .reservedBits
  | .badLength => .badLength

/-- ERROR ENTRY, `raise Error(c)` (60_exceptions.md R121): the class bit of `c` is set, CAUSE takes `c` if no error came
before, `PHASE <- ERROR`, `DV <- 0`; nothing else is written (R122). There is no vector and no saved state. -/
def State.raiseError (s : State) (c : Cause) : State :=
  { s with
    errMisuse := s.errMisuse || c.isMisuse
    errIllegal := s.errIllegal || c.isIllegal
    cause := if s.cause = .none then c else s.cause
    phase := .error
    dv := false }

/-- The core accepts `w`: `BUSY <- 1`, and nothing of the command has taken effect (10_state.md R33). -/
def State.accept (s : State) (w : Word64) : State := { s with port := .executing w }

/-- The port is ready again: a command has completed (`BUSY <- 0`, 10_state.md R33) or reset has ended
(70_reset_and_hazards.md R136). -/
def State.release (s : State) : State := { s with port := .ready }

/-- The host asserts `rst`: every field of the spec takes its reset value, a command in progress is abandoned, and the port
accepts nothing until reset ends (70_reset_and_hazards.md R136, R137). The host's further plans stay; the argument of the
free read data moves on (notes/assumptions/3.md, 4.md). -/
def State.assertReset (s : State) : State :=
  { State.reset with port := .inReset, host := s.host, freeIx := s.freeIx + 1 }

/-- What the host is going to do from now on (notes/assumptions/1.md). -/
def State.setHost (s : State) (hs : List HostInput) : State := { s with host := hs }

/-- `f` on the state of a next outcome; a fault or a refusal stays what it is. -/
def onNext (f : State → State) : Host.Outcome State Fault Refusal → Host.Outcome State Fault Refusal
  | .next s => .next (f s)
  | .fault r => .fault r
  | .refused r => .refused r

end Sys2Proof.Machine
end

