-- ==== Sys2Proof/Machine/Flags.lean ====
section
/-! DEFINITION. The status bits and codes, and the phase checks. The core has no condition codes (10_state.md R19). -/

namespace Sys2Proof.Machine

/-- The PHASE code (10_state.md R20). -/
def Phase.code : Phase → BitVec 3
  | .idle => 0
  | .fresh => 1
  | .accum => 2
  | .final => 3
  | .error => 4

/-- The CAUSE code (60_exceptions.md R115). -/
def Cause.code : Cause → BitVec 4
  | .none => 0
  | .updateAfterFinalize => 1
  | .finalizeTwice => 2
  | .noSession => 3
  | .illegalOpcode => 4
  | .reservedBits => 5
  | .badLength => 6

/-- A session is open: UPDATE and FINALIZE are legal (60_exceptions.md R116). -/
def Phase.isOpen : Phase → Bool
  | .idle => false
  | .fresh => true
  | .accum => true
  | .final => false
  | .error => false

/-- The cause of an UPDATE in a phase that is not open (60_exceptions.md R116). -/
def updateMisuse (p : Phase) : Cause := if p = .final then .updateAfterFinalize else .noSession

/-- The cause of a FINALIZE in a phase that is not open (60_exceptions.md R116). -/
def finalizeMisuse (p : Phase) : Cause := if p = .final then .finalizeTwice else .noSession

/-- BUSY (10_state.md R33). In reset no rule gives it a value: DESIGN CHOICE (notes/assumptions/17.md), 0 there, and the read
port, which returns a free value in reset, does not show it. -/
def State.busy (s : State) : Bool :=
  match s.port with
  | .ready => false
  | .executing _ => true
  | .inReset => false

/-- The port `cmd_ready`: `~BUSY` outside reset, 0 in reset (70_reset_and_hazards.md R136, R141). -/
def State.cmdReady (s : State) : Bool :=
  match s.port with
  | .ready => true
  | .executing _ => false
  | .inReset => false

/-- `STATUS = {BUSY, 9'b0, PEND[5:0], 4'b0, CAUSE[3:0], 2'b0, ERR_ILLEGAL, ERR_MISUSE, DV, PHASE[2:0]}` (10_state.md R31). -/
def State.status (s : State) : Word :=
  BitVec.ofBool s.busy ++ (0 : BitVec 9) ++ BitVec.ofNat 6 s.pend.val ++ (0 : BitVec 4) ++ s.cause.code ++
    (0 : BitVec 2) ++ BitVec.ofBool s.errIllegal ++ BitVec.ofBool s.errMisuse ++ BitVec.ofBool s.dv ++ s.phase.code

end Sys2Proof.Machine
end

