-- ==== Sys2Proof/Machine/Accumulator.lean ====
section
/-! DEFINITION. The streaming accumulator: NOP, INIT and UPDATE (43_accumulator.md R92 to R101). -/

namespace Sys2Proof.Machine

/-- NOP: no write, legal in every phase (R92). -/
def execNop (s : State) : Host.Outcome State Fault Refusal := .next s

/-- INIT: opens a fresh session from every phase; BUF, DIGEST and the error state are kept (R93). -/
def execInit (s : State) : Host.Outcome State Fault Refusal := .next s.openSession

/-- One turn of UPDATE's loop (R94): `BUF[PEND] <- b; PEND <- PEND + 1`, and when that makes 64, `COMPRESS(BUF[0..63])` and
`PEND <- 0`, before the next byte of the beat (R95). -/
def State.appendByte (s : State) (b : Byte) : State :=
  if s.pend.val + 1 = 64 then
    ((s.bufWrite s.pend b).compressBlock (s.bufWrite s.pend b).buf).setPend 0
  else
    (s.bufWrite s.pend b).setPend (s.pend + 1)

/-- The writes of a legal UPDATE: the bytes in lane order, then LEN, then `PHASE <- ACCUM` (R94, R96, R99). -/
def State.absorb (s : State) (bytes : List Byte) : State :=
  ((bytes.foldl State.appendByte s).addLen bytes.length).setPhase .accum

/-- UPDATE: legal in FRESH and ACCUM; otherwise error entry, with no byte appended (R94, 60_exceptions.md R116, R123). -/
def execUpdate (bytes : List Byte) (s : State) : Host.Outcome State Fault Refusal :=
  .next (if s.phase.isOpen then s.absorb bytes else s.raiseError (updateMisuse s.phase))

end Sys2Proof.Machine
end

