-- ==== Sys2Proof/Machine/Operands.lean ====
section
/-! DEFINITION. The operands the commands read: the pending bytes, the length field, the padding blocks
(44_finalizer.md R103 to R106). UPDATE's own operand, the byte list, is decoded in Decode.lean (30_encoding.md R55). -/

namespace Sys2Proof.Machine

/-- The pending bytes `BUF[0 .. PEND-1]` (10_state.md R21). -/
def State.pendingBytes (s : State) : List Byte := s.buf.toList.take s.pend.val

/-- `Lb = be64bytes((LEN * 8) mod 2^64)` (44_finalizer.md R106). -/
def lengthField (len : Word64) : Vector Byte 8 := be64bytes (len * 8)

/-- `B1 = BUF[0..p-1] ++ [0x80] ++ zeros(63 - p)` (44_finalizer.md R103). -/
def paddedBlock (buf : Vector Byte 64) (p : Fin 64) : Block :=
  Vector.ofFn fun i => if i < p then buf[i] else if i = p then 0x80 else 0

/-- `B[56..63] <- Lb` (44_finalizer.md R104). -/
def withLength (b : Block) (lb : Vector Byte 8) : Block :=
  Vector.ofFn fun i => if h : 56 ≤ i.val then lb[i.val - 56] else b[i]

/-- `B2 = zeros(56) ++ Lb` (44_finalizer.md R105). -/
def lengthBlock (lb : Vector Byte 8) : Block := withLength (Vector.replicate 64 0) lb

end Sys2Proof.Machine
end

