-- ==== Sys2Proof/Machine/Finalizer.lean ====
section
/-! DEFINITION. The finalizer: padding and FINALIZE (44_finalizer.md R102 to R113). -/

namespace Sys2Proof.Machine

/-- The compressions of FINALIZE: one block when `PEND <= 55` (R104), `B1` and then `B2` otherwise (R105). -/
def State.compressPadding (s : State) : State :=
  if s.pend.val ≤ 55 then
    s.compressBlock (withLength (paddedBlock s.buf s.pend) (lengthField s.len))
  else
    (s.compressBlock (paddedBlock s.buf s.pend)).compressBlock (lengthBlock (lengthField s.len))

/-- The writes of a legal FINALIZE: the padding, the digest and DV, `PEND <- 0`, `PHASE <- FINAL` (R102, R107, R108). -/
def State.closeSession (s : State) : State :=
  ((s.compressPadding.latchDigest).setPend 0).setPhase .final

/-- FINALIZE: legal in FRESH and ACCUM; otherwise error entry, with nothing padded or compressed (R102, R109). -/
def execFinalize (s : State) : Host.Outcome State Fault Refusal :=
  .next (if s.phase.isOpen then s.closeSession else s.raiseError (finalizeMisuse s.phase))

end Sys2Proof.Machine
end

