-- ==== Sys2Proof/Machine/Dispatch.lean ====
section
/-! DEFINITION. The one match over the instructions (43_accumulator.md R100). -/

namespace Sys2Proof.Machine

def exec (i : Instr) (s : State) : Host.Outcome State Fault Refusal :=
  match i with
  | .nop => Sys2Proof.Machine.execNop s
  | .init => Sys2Proof.Machine.execInit s
  | .update bytes => Sys2Proof.Machine.execUpdate bytes s
  | .finalize => Sys2Proof.Machine.execFinalize s

end Sys2Proof.Machine
end

