-- ==== Sys2Proof/Machine/Port.lean ====
section
/-! DEFINITION. The command port and one step of the core (43_accumulator.md R100, 10_state.md R33,
70_reset_and_hazards.md R136, R137, R141). The reading of the host's list is the model's own (notes/assumptions/1.md, 2.md). -/

namespace Sys2Proof.Machine

/-- The effect of an accepted word: the command it decodes to, or error entry for a word that is none (R100). -/
def execWord (w : Word64) (s : State) : Host.Outcome State Fault Refusal :=
  match decode w with
  | .ok i => exec i s
  | .error e => .next (s.raiseError (causeOfIllegal e))

/-- The word in execution completes: its writes take effect together and `BUSY <- 0` (10_state.md R33). -/
def completeWord (w : Word64) (s : State) : Host.Outcome State Fault Refusal := onNext State.release (execWord w s)

/-- The complete execution of one command word, from acceptance to completion (00_scope.md R12, 20_memory.md R45). -/
def transact (w : Word64) (s : State) : Host.Outcome State Fault Refusal := completeWord w (s.accept w)

/-- Time passes without a new word and without reset: a command in progress completes (70_reset_and_hazards.md R148), a reset
ends (R136), and otherwise the core holds its state (R145). -/
def settle (s : State) : Host.Outcome State Fault Refusal :=
  match s.port with
  | .ready => .next s
  | .executing w => completeWord w s
  | .inReset => .next s.release

/-- One step: the oldest thing the host does. Reset overrides everything (60_exceptions.md R118). A word is accepted only
when `cmd_ready = 1`; until then the host holds it, so it stays in the list (70_reset_and_hazards.md R141). -/
def hostStep (s : State) : Host.Outcome State Fault Refusal :=
  match s.host with
  | [] => settle s
  | .wait :: rest => settle (s.setHost rest)
  | .reset :: rest => .next (s.setHost rest).assertReset
  | .command w :: rest => if s.cmdReady then transact w (s.setHost rest) else settle s
  | .accept w :: rest => if s.cmdReady then .next ((s.setHost rest).accept w) else settle s

/-- The host presents `w` at a ready port next, before anything else it was going to do. -/
def State.presentNext (s : State) (w : Word64) : State := (s.setHost (.command w :: s.host)).release

end Sys2Proof.Machine
end

