-- ==== Sys2Proof/Machine/Step.lean ====
section
/-! DEFINITION. The step function, and a command word placed where the step takes its next one. -/

namespace Sys2Proof.Machine

/-- One step of the core. -/
def step (s : State) : Host.Outcome State Fault Refusal := hostStep s

/-- The command word whose low `nbits` bits are `w`'s, the bits above zero, presented at a ready port as the very next thing
the host does (notes/assumptions/1.md). -/
def State.withFetchWord (s : State) (nbits w : Nat) : State := s.presentNext (BitVec.ofNat 64 (w % 2 ^ nbits))

end Sys2Proof.Machine
end

