-- ==== Sys2Proof/Machine/Platform.lean ====
section
/-! DEFINITION. A platform of several cores (20_memory.md R48, 60_exceptions.md R131): each core has its whole state and its
own ports, K and IV are constants, and nothing else is shared. The number of cores is the length of the list
(notes/assumptions/10.md). -/

namespace Sys2Proof.Machine

/-- Core `i` of the platform makes one step; a core that does not exist makes none. -/
def platformStep (cores : List State) (i : Nat) : List State :=
  match cores[i]? with
  | none => cores
  | some s =>
    match step s with
    | .next t => cores.set i t
    | .fault _ => cores
    | .refused _ => cores

end Sys2Proof.Machine
end

