-- ==== Sys2Proof/Machine/Pseudo.lean ====
section
/-! DEFINITION. The pseudo-instructions UPDATE_CHUNK and HASH and the assembler's lines (30_encoding.md R61 to R63). They are
host software: each expands to command words and none adds anything to the core. -/

namespace Sys2Proof.Machine

/-- A chunk cut into beats: every beat full (four bytes) except the last (30_encoding.md R62). -/
def beats : List Byte → List (List Byte)
  | [] => []
  | [b0] => [[b0]]
  | [b0, b1] => [[b0, b1]]
  | [b0, b1, b2] => [[b0, b1, b2]]
  | b0 :: b1 :: b2 :: b3 :: rest => [b0, b1, b2, b3] :: beats rest

/-- `UPDATE_CHUNK bytes`: one UPDATE per beat, and one UPDATE of no byte for the empty chunk (30_encoding.md R62). -/
def updateChunk (bytes : List Byte) : List Instr :=
  if bytes = [] then [.update []] else (beats bytes).map .update

/-- `HASH bytes`: INIT, UPDATE_CHUNK, FINALIZE (30_encoding.md R63). -/
def hashCommands (bytes : List Byte) : List Instr := .init :: (updateChunk bytes ++ [.finalize])

/-- One line of an assembler's input, its lexical form already read (30_encoding.md R61; notes/assumptions/12.md). -/
inductive AsmLine where
  | nop
  | init
  | finalize
  /-- `UPDATE b0, b1, ...`: byte literals as numbers. -/
  | update (bytes : List Nat)
  /-- `UPDATE "s"`: a string of ASCII characters. -/
  | updateString (chars : List Char)
  /-- `.word64 0x...`: the literal word, legal or not. -/
  | word64 (w : Word64)
  /-- `UPDATE_CHUNK bytes` (R62). -/
  | updateChunk (bytes : List Byte)
  /-- `HASH bytes` (R63). -/
  | hash (bytes : List Byte)
deriving DecidableEq, Repr

/-- The word of an UPDATE given its bytes as numbers: refused above four bytes or above 255 (30_encoding.md R61). -/
def assembleUpdate (bytes : List Nat) : Option (List Word64) :=
  if bytes.length ≤ 4 ∧ bytes.all (· ≤ 255) then some [encode (.update (bytes.map (BitVec.ofNat 8)))] else none

/-- The words of a line, or none where the assembler refuses it (30_encoding.md R61). -/
def assemble : AsmLine → Option (List Word64)
  | .nop => some [encode .nop]
  | .init => some [encode .init]
  | .finalize => some [encode .finalize]
  | .update bytes => assembleUpdate bytes
  | .updateString chars => if chars.all (·.toNat ≤ 127) then assembleUpdate (chars.map Char.toNat) else none
  | .word64 w => some [w]
  | .updateChunk bytes => some ((updateChunk bytes).map encode)
  | .hash bytes => some ((hashCommands bytes).map encode)

end Sys2Proof.Machine
end

