-- ==== Sys2Proof/Machine/ReadPort.lean ====
section
/-! DEFINITION. The read port, the host's only view of state (10_state.md R30 to R32, 20_memory.md R44): a function of the
address and the state, so a read changes nothing and can be repeated. While a command executes its writes have not taken
effect, so the port shows the state from before it, with BUSY 1 (R33, 20_memory.md R46). -/

namespace Sys2Proof.Machine

/-- The register map of 10_state.md R30, outside reset. `DIGESTi` returns `DIGEST[i]` whatever DV is (R32). -/
def State.readRegister (s : State) (a : BitVec 4) : Word :=
  if a = 0 then s.status
  else if a = 1 then s.len.extractLsb' 0 32
  else if a = 2 then s.len.extractLsb' 32 32
  else if a.toNat < 8 then 0
  else s.digest[a.toNat % 8]

/-- `rd_data` in reset. No rule gives the fields a value there (70_reset_and_hazards.md R136), so it is the free value of
notes/assumptions/4.md, but for the reserved bits of STATUS and the reserved addresses, which read zero whatever the fields
hold (R31, R32). -/
def State.readFree (s : State) (a : BitVec 4) : Word :=
  if a = 0 then Config.readInReset s.freeIx a &&& 0x803F0F3F
  else if 3 ≤ a.toNat ∧ a.toNat ≤ 7 then 0
  else Config.readInReset s.freeIx a

/-- `rd_data` for `rd_addr = a` (R30). -/
def State.rdData (s : State) (a : BitVec 4) : Word :=
  match s.port with
  | .ready => s.readRegister a
  | .executing _ => s.readRegister a
  | .inReset => s.readFree a

/-- The observation of a state: the whole read-port map (70_reset_and_hazards.md R147). -/
def State.observe (s : State) : Vector Word 16 := Vector.ofFn fun a => s.rdData (BitVec.ofFin a)

/-- The 32-byte form of the digest: byte `4i + k` is `DIGEST[i][31-8k : 24-8k]` (20_memory.md R39). -/
def State.digestBytes (s : State) : Vector Byte 32 :=
  Vector.ofFn fun j => (s.digest[j.val / 4]).extractLsb' (24 - 8 * (j.val % 4)) 8

/-- The lowercase hex digit of a number below 16. -/
def hexDigit (n : Nat) : Char :=
  ['0', '1', '2', '3', '4', '5', '6', '7', '8', '9', 'a', 'b', 'c', 'd', 'e', 'f'].getD n '0'

/-- The canonical hex text of the digest: two digits per byte, high nibble first (20_memory.md R39). Host software. -/
def State.digestHex (s : State) : List Char :=
  s.digestBytes.toList.flatMap fun b => [hexDigit (b.toNat / 16), hexDigit (b.toNat % 16)]

end Sys2Proof.Machine
end

