-- ==== Sys2Proof/Machine/Standard.lean ====
section
/-! DEFINITION. The digest of a whole message, with no buffer, no beats and no session: the function the core computes
(00_scope.md R2, 42_compression.md R91, 44_finalizer.md R103 to R106, R110). Claims compare the streaming core with it. It is
SHA-256 for messages below 2^61 bytes only (44_finalizer.md R112, notes/assumptions/11.md). -/

namespace Sys2Proof.Machine

/-- How many zero bytes follow `0x80` so that the length field ends a block, for a message of `n` bytes. -/
def zeroFill (n : Nat) : Nat := (119 - n % 64) % 64

/-- The padded message: the message, `0x80`, zeros, and the bit count in 8 bytes (44_finalizer.md R103 to R106). -/
def padMessage (m : List Byte) : List Byte :=
  m ++ [0x80] ++ List.replicate (zeroFill m.length) 0 ++ (be64bytes (BitVec.ofNat 64 (m.length * 8))).toList

/-- Block `k` of a byte sequence: bytes `64k .. 64k + 63`. -/
def messageBlock (m : List Byte) (k : Nat) : Block := Vector.ofFn fun i => m.getD (64 * k + i.val) 0

/-- `C(... C(C(IV, M_1), M_2) ..., M_n)` over the first `n` blocks of a byte sequence (42_compression.md R91). -/
def chain (m : List Byte) (n : Nat) : Hash :=
  (List.range n).foldl (fun hs k => compress hs (messageBlock m k)) initialHash

/-- The digest of a message: the chain over all blocks of the padded message (42_compression.md R91, 44_finalizer.md R110). -/
def sha256 (m : List Byte) : Hash := chain (padMessage m) ((padMessage m).length / 64)

end Sys2Proof.Machine
end

