-- ==== Sys2Proof/Safety.lean ====
section
/-! DEFINITION. The terms claims use: when a run has ended, has faulted or has produced a digest
(70_reset_and_hazards.md R147), runs of commands and words, the invariant of the core, and the session a claim compares it
with. -/

namespace Sys2Proof.Machine

/-- The run has ended: the host does nothing more and `BUSY = 0` (70_reset_and_hazards.md R147). No rule gives BUSY a value
while the core is in reset. DESIGN CHOICE (notes/assumptions/17.md): there the run has not ended, so the test is `cmd_ready`,
which is `~BUSY` outside reset (R141) and 0 in reset (R136). R147 does not say either when a host that has only idle cycles or
a reset still to drive has stopped issuing commands. DESIGN CHOICE (notes/assumptions/17.md): the host has stopped when its
list is empty, so with such events left the run has not ended. -/
def State.runEnded (s : State) : Bool := s.host.isEmpty && s.cmdReady

/-- Asked of a run's final state: the run has faulted, whatever its phase (70_reset_and_hazards.md R147). -/
def State.faulted (s : State) : Bool := s.errMisuse || s.errIllegal

/-- Asked of a run's final state: the run has produced a digest (70_reset_and_hazards.md R147). -/
def State.producesDigest (s : State) : Bool := s.phase = .final && s.dv

/-- The instructions executed one after the other (20_memory.md R45). -/
def runInstrs : List Instr → State → Host.Outcome State Fault Refusal
  | [], s => .next s
  | i :: is, s =>
    match exec i s with
    | .next t => runInstrs is t
    | .fault r => .fault r
    | .refused r => .refused r

/-- The words executed one after the other, each to its completion (20_memory.md R45). -/
def runWords : List Word64 → State → Host.Outcome State Fault Refusal
  | [], s => .next s
  | w :: ws, s =>
    match transact w s with
    | .next t => runWords ws t
    | .fault r => .fault r
    | .refused r => .refused r

/-- `n` steps of the core. -/
def runSteps : Nat → State → Host.Outcome State Fault Refusal
  | 0, s => .next s
  | n + 1, s =>
    match step s with
    | .next t => runSteps n t
    | .fault r => .fault r
    | .refused r => .refused r

/-- What every step of the core keeps. -/
structure State.Inv (s : State) : Prop where
  /-- In an open session PEND is LEN modulo 64 (43_accumulator.md R97). -/
  openCount : s.phase.isOpen = true → s.pend.val = s.len.toNat % 64
  /-- In FRESH the session is as INIT left it (43_accumulator.md R93, 10_state.md R20). -/
  freshSession : s.phase = .fresh → s.h = initialHash ∧ s.pend = 0 ∧ s.len = 0
  /-- In FINAL the buffer is consumed and DIGEST equals H (44_finalizer.md R107, R108). -/
  finalSession : s.phase = .final → s.pend = 0 ∧ s.digest = s.h
  /-- DV is 1 exactly in FINAL (60_exceptions.md R135). -/
  digestValid : s.dv = true ↔ s.phase = .final
  /-- CAUSE is NONE exactly while no error bit is set (10_state.md R26, 60_exceptions.md R121). -/
  causeNone : s.cause = .none ↔ s.faulted = false
  /-- The class bit of the recorded cause is set (60_exceptions.md R121). -/
  causeClass : (s.cause.isMisuse = true → s.errMisuse = true) ∧ (s.cause.isIllegal = true → s.errIllegal = true)
  /-- In ERROR an error has been recorded (60_exceptions.md R121). -/
  errorRecorded : s.phase = .error → s.faulted = true
  /-- In IDLE nothing has happened since reset (70_reset_and_hazards.md R136, R138). -/
  idleReset : s.phase = .idle → s.h = Vector.replicate 8 0 ∧ s.buf = Vector.replicate 64 0 ∧ s.pend = 0 ∧ s.len = 0 ∧
    s.digest = Vector.replicate 8 0 ∧ s.faulted = false
  /-- While `cmd_ready = 0` for reset, every field has its reset value and no command has run (70_reset_and_hazards.md
  R136). -/
  resetHeld : s.port = .inReset → s.phase = .idle

/-- A session as the host sees it: its phase, and the bytes of the legal UPDATEs since the last INIT, in order
(20_memory.md R36, 70_reset_and_hazards.md R147). -/
structure Session where
  phase : Phase
  msg : List Byte
deriving DecidableEq, Repr

/-- What a decoded word does to the session (43_accumulator.md R100). An error ends it. -/
def Session.after (σ : Session) : Except Illegal Instr → Session
  | .error _ => ⟨.error, []⟩
  | .ok .nop => σ
  | .ok .init => ⟨.fresh, []⟩
  | .ok (.update bytes) => if σ.phase.isOpen then ⟨.accum, σ.msg ++ bytes⟩ else ⟨.error, []⟩
  | .ok .finalize => if σ.phase.isOpen then ⟨.final, σ.msg⟩ else ⟨.error, []⟩

/-- The session after a sequence of words that starts at reset. -/
def sessionOf (ws : List Word64) : Session := ws.foldl (fun σ w => σ.after (decode w)) ⟨.idle, []⟩

/-- The core holds the session: the chaining value of the full blocks, the rest of the bytes pending, the byte count, and in
FINAL the digest of the stream, which is claimed to be SHA-256 below 2^61 bytes only (44_finalizer.md R112). -/
structure State.Holds (s : State) (σ : Session) : Prop where
  phase : s.phase = σ.phase
  chained : σ.phase.isOpen = true → s.h = chain σ.msg (σ.msg.length / 64)
  pendCount : σ.phase.isOpen = true → s.pend.val = σ.msg.length % 64
  pending : σ.phase.isOpen = true → s.buf.toList.take s.pend.val = σ.msg.drop (64 * (σ.msg.length / 64))
  count : σ.phase.isOpen = true ∨ σ.phase = .final → s.len = BitVec.ofNat 64 σ.msg.length
  digested : σ.phase = .final → s.dv = true ∧ (σ.msg.length < 2 ^ 61 → s.digest = sha256 σ.msg)

/-- The two states differ at most in the stale bytes `BUF[PEND..63]` (43_accumulator.md R101). -/
def State.sameButStale (s t : State) : Prop :=
  s.pend = t.pend ∧ s.buf.toList.take s.pend.val = t.buf.toList.take t.pend.val ∧ { s with buf := t.buf } = t

end Sys2Proof.Machine
end

