-- ==== Sys2Proof/Certificates/Slice0/Obligations.lean ====
section
/-! DEFINITION. The statements for the provers, one `def Obligations.<Name> : Prop` each; OBLIGATIONS.json lists them with
the rules of spec/ they formalise. -/

open Sys2Proof Sys2Proof.Machine

/-! ### Encoding -/

/-- Words written out from the encodings of 30_encoding.md R56 and the rows of 95_test_vectors.md section 2.6 decode to the
command, or to the illegal-word reason, that they stand for. -/
def Obligations.SampleWordsDecode : Prop :=
  decode 0x0000000000000000 = .ok .nop ∧
  decode 0x1000000000000000 = .ok .init ∧
  decode 0x2000000000000000 = .ok (.update []) ∧
  decode 0x2000000361626300 = .ok (.update [0x61, 0x62, 0x63]) ∧
  decode 0x2000000164FFFFFF = .ok (.update [0x64]) ∧
  decode 0x30000000FFFFFFFF = .ok .finalize ∧
  decode 0xF000000000000000 = .error .illegalOpcode ∧
  decode 0x0000000800000000 = .error .reservedBits ∧
  decode 0x2800000500000000 = .error .reservedBits ∧
  decode 0x2000000500000000 = .error .badLength

/-- Every well-formed command comes back from its word, with every byte at every value. -/
def Obligations.DecodeOfEncode : Prop :=
  ∀ i : Instr, i.wellFormed = true → decode (encode i) = .ok i

/-- 30_encoding.md R56: each command is its match and mask, and UPDATE carries lanes `0 .. NB-1` of DATA. -/
def Obligations.DecodeByMatchAndMask : Prop :=
  ∀ w : Word64,
    (decode w = .ok .nop ↔ w &&& 0xFFFFFFFF00000000 = 0x0000000000000000) ∧
    (decode w = .ok .init ↔ w &&& 0xFFFFFFFF00000000 = 0x1000000000000000) ∧
    (decode w = .ok .finalize ↔ w &&& 0xFFFFFFFF00000000 = 0x3000000000000000) ∧
    ∀ bytes : List Byte,
      decode w = .ok (.update bytes) ↔
        w &&& 0xFFFFFFF800000000 = 0x2000000000000000 ∧ w.toNat / 2 ^ 32 % 8 ≤ 4 ∧
        bytes = (List.range (w.toNat / 2 ^ 32 % 8)).map fun k => BitVec.ofNat 8 (w.toNat / 2 ^ (24 - 8 * k))

/-- 30_encoding.md R58 and 60_exceptions.md R117: which words are illegal, and the reason reported when several apply. -/
def Obligations.IllegalWordsByPriority : Prop :=
  ∀ w : Word64,
    (decode w = .error .illegalOpcode ↔ 4 ≤ w.toNat / 2 ^ 60) ∧
    (decode w = .error .reservedBits ↔
      w.toNat / 2 ^ 60 < 4 ∧
        (w.toNat / 2 ^ 35 % 2 ^ 25 ≠ 0 ∨ (w.toNat / 2 ^ 60 ≠ 2 ∧ w.toNat / 2 ^ 32 % 8 ≠ 0))) ∧
    (decode w = .error .badLength ↔
      w.toNat / 2 ^ 60 = 2 ∧ w.toNat / 2 ^ 35 % 2 ^ 25 = 0 ∧ 4 < w.toNat / 2 ^ 32 % 8)

/-- 30_encoding.md R59: two words that agree above DATA, and for UPDATE in the lanes it carries, are the same command. -/
def Obligations.IgnoredBitsDoNotMatter : Prop :=
  ∀ w v : Word64,
    (∀ i : Nat, 32 ≤ i → w.getLsbD i = v.getLsbD i) →
    (w.toNat / 2 ^ 60 = 2 → ∀ i : Nat, 32 ≤ i + 8 * (w.toNat / 2 ^ 32 % 8) → i < 32 → w.getLsbD i = v.getLsbD i) →
    decode w = decode v

/-! ### Word functions, schedule, compression -/

/-- 40_word_functions.md R64: the formula of ROTR, the bit it moves, its corner cases and its example. -/
def Obligations.RotateRightMovesBits : Prop :=
  ∀ n : Nat, 0 < n → n < 32 →
    (∀ x : Word, rotr n x = (x >>> n) ||| (x <<< (32 - n)) ∧
      ∀ i : Nat, i < 32 → (rotr n x).getLsbD i = x.getLsbD ((i + n) % 32)) ∧
    rotr n 0x00000000 = 0x00000000 ∧ rotr n 0xFFFFFFFF = 0xFFFFFFFF ∧ rotr 7 0x00000001 = 0x02000000

/-- 40_word_functions.md R65 and R66: the shift with its zero fill, the sum modulo 2^32, and their corner cases and example. -/
def Obligations.ShiftAndSumWords : Prop :=
  (∀ (n : Nat) (x : Word),
    shr n x = x >>> n ∧ ∀ i : Nat, (shr n x).getLsbD i = (decide (i + n < 32) && x.getLsbD (i + n))) ∧
  shr 3 0xFFFFFFFF = 0x1FFFFFFF ∧ shr 3 0 = 0 ∧ shr 10 0 = 0 ∧ shr 3 0x80000000 = 0x10000000 ∧
  (∀ x y : Word, (x + y).toNat = (x.toNat + y.toNat) % 2 ^ 32) ∧
  (0xFFFFFFFF : Word) + 1 = 0 ∧ (0x80000000 : Word) + 0x80000000 = 0 ∧
  (0xFFFFFFFF : Word) + 0xFFFFFFFF + 0xFFFFFFFF + 0xFFFFFFFF + 0xFFFFFFFF = 0xFFFFFFFB

/-- 40_word_functions.md R73 and R74: the tables' lengths, and each word of them as the first 32 bits of the fractional part
of the cube root or square root of a prime. `r` is the root times 2^32, rounded down. -/
def Obligations.ConstantsAreRootsOfPrimes : Prop :=
  roundConstants.length = 64 ∧
  ∀ primes : List Nat,
    primes = (List.range 312).filter (fun n => 2 ≤ n && (List.range n).all fun d => d < 2 || n % d != 0) →
    (∀ t : Fin 64, ∃ r : Nat,
      r ^ 3 ≤ primes.getD t.val 0 * 2 ^ 96 ∧ primes.getD t.val 0 * 2 ^ 96 < (r + 1) ^ 3 ∧
      (roundConstants.getD t.val 0).toNat = r % 2 ^ 32) ∧
    ∀ i : Fin 8, ∃ r : Nat,
      r ^ 2 ≤ primes.getD i.val 0 * 2 ^ 64 ∧ primes.getD i.val 0 * 2 ^ 64 < (r + 1) ^ 2 ∧
      (initialHash[i]).toNat = r % 2 ^ 32

/-- 40_word_functions.md R67 and R68: the formulas of Ch and Maj, and what they do to each bit. -/
def Obligations.ChoiceAndMajorityByBit : Prop :=
  ∀ x y z : Word,
    ch x y z = (x &&& y) ^^^ (~~~x &&& z) ∧
    maj x y z = (x &&& y) ^^^ (x &&& z) ^^^ (y &&& z) ∧
    (∀ i : Nat, i < 32 →
      (ch x y z).getLsbD i = (if x.getLsbD i then y.getLsbD i else z.getLsbD i) ∧
      (maj x y z).getLsbD i =
        (if x.getLsbD i = y.getLsbD i then x.getLsbD i else z.getLsbD i)) ∧
    ch 0xFFFFFFFF y z = y ∧ ch 0 y z = z ∧ maj x x z = x ∧ maj 0xFFFFFFFF 0 z = z ∧
    ch 0x510e527f 0x9b05688c 0x1f83d9ab = 0x1f85c98c ∧ maj 0x6a09e667 0xbb67ae85 0x3c6ef372 = 0x3a6fe667

/-- 40_word_functions.md R69 to R72: each sigma function is the exclusive or of its rotations (and shift), with Lean's own
`rotateRight` in place of the model's ROTR, and its corner cases. -/
def Obligations.SigmaFunctionsByRotation : Prop :=
  (∀ x : Word,
    bigSigma0 x = x.rotateRight 2 ^^^ x.rotateRight 13 ^^^ x.rotateRight 22 ∧
    bigSigma1 x = x.rotateRight 6 ^^^ x.rotateRight 11 ^^^ x.rotateRight 25 ∧
    smallSigma0 x = x.rotateRight 7 ^^^ x.rotateRight 18 ^^^ (x >>> 3) ∧
    smallSigma1 x = x.rotateRight 17 ^^^ x.rotateRight 19 ^^^ (x >>> 10)) ∧
  bigSigma0 0 = 0 ∧ bigSigma0 0xFFFFFFFF = 0xFFFFFFFF ∧ bigSigma0 1 = 0x40080400 ∧
  bigSigma1 0 = 0 ∧ bigSigma1 0xFFFFFFFF = 0xFFFFFFFF ∧ bigSigma1 1 = 0x04200080 ∧
  smallSigma0 0 = 0 ∧ smallSigma0 0xFFFFFFFF = 0x1FFFFFFF ∧ smallSigma0 1 = 0x02004000 ∧
  smallSigma1 0 = 0 ∧ smallSigma1 0xFFFFFFFF = 0x003FFFFF ∧ smallSigma1 0x61626380 = 0x7da86405

/-- 41_message_scheduler.md R80 and R81: 64 words, the first 16 the block's big-endian words, the rest by the recurrence. -/
def Obligations.ScheduleFollowsRecurrence : Prop :=
  ∀ b : Block,
    (schedule b).length = 64 ∧
    (∀ t : Fin 16, (schedule b).getD t.val 0 = b[4 * t.val] ++ b[4 * t.val + 1] ++ b[4 * t.val + 2] ++ b[4 * t.val + 3]) ∧
    ∀ t : Nat, 16 ≤ t → t < 64 →
      (schedule b).getD t 0 =
        smallSigma1 ((schedule b).getD (t - 2) 0) + (schedule b).getD (t - 7) 0 +
          smallSigma0 ((schedule b).getD (t - 15) 0) + (schedule b).getD (t - 16) 0

/-- 42_compression.md R85 to R88: the working variables start as H, go through rounds 0 to 63 in order, round `t` with
`K[t]` and `W[t]`, and are added back to H; with R86's two corner cases and example of one round. -/
def Obligations.CompressRunsSixtyFourRounds : Prop :=
  round ⟨0, 0, 0, 0, 0, 0, 0, 0⟩ 0 0 = ⟨0, 0, 0, 0, 0, 0, 0, 0⟩ ∧
  (∀ v : Working, v = ⟨0xFFFFFFFF, 0xFFFFFFFF, 0xFFFFFFFF, 0xFFFFFFFF, 0xFFFFFFFF, 0xFFFFFFFF, 0xFFFFFFFF, 0xFFFFFFFF⟩ →
    round v 0xFFFFFFFF 0xFFFFFFFF = { v with a := 0xFFFFFFF9, e := 0xFFFFFFFA }) ∧
  round ⟨0x6a09e667, 0xbb67ae85, 0x3c6ef372, 0xa54ff53a, 0x510e527f, 0x9b05688c, 0x1f83d9ab, 0x5be0cd19⟩ 0x428a2f98 0x61626380 =
    ⟨0x5d6aebcd, 0x6a09e667, 0xbb67ae85, 0x3c6ef372, 0xfa2a4622, 0x510e527f, 0x9b05688c, 0x1f83d9ab⟩ ∧
  ∀ (hs : Hash) (b : Block), ∃ v : Nat → Working,
    v 0 = ⟨hs[0], hs[1], hs[2], hs[3], hs[4], hs[5], hs[6], hs[7]⟩ ∧
    (∀ t : Nat, t < 64 → ∃ t1 t2 : Word,
      t1 = (v t).h + bigSigma1 (v t).e + ch (v t).e (v t).f (v t).g + roundConstants.getD t 0 + (schedule b).getD t 0 ∧
      t2 = bigSigma0 (v t).a + maj (v t).a (v t).b (v t).c ∧
      v (t + 1) = ⟨t1 + t2, (v t).a, (v t).b, (v t).c, (v t).d + t1, (v t).e, (v t).f, (v t).g⟩) ∧
    (compress hs b)[0] = hs[0] + (v 64).a ∧ (compress hs b)[1] = hs[1] + (v 64).b ∧
    (compress hs b)[2] = hs[2] + (v 64).c ∧ (compress hs b)[3] = hs[3] + (v 64).d ∧
    (compress hs b)[4] = hs[4] + (v 64).e ∧ (compress hs b)[5] = hs[5] + (v 64).f ∧
    (compress hs b)[6] = hs[6] + (v 64).g ∧ (compress hs b)[7] = hs[7] + (v 64).h

/-! ### The commands: results, frames and completion -/

/-- 43_accumulator.md R92: NOP completes in every phase and writes nothing; the words are those of its match and mask; a word
of its opcode with RSV or NB not zero is illegal for reserved bits. -/
def Obligations.NopHasNoEffect : Prop :=
  ∀ s : State,
    exec .nop s = .next s ∧
    (s.port = .ready → ∀ w : Word64, w &&& 0xFFFFFFFF00000000 = 0x0000000000000000 → transact w s = .next s) ∧
    ∀ w : Word64, w.toNat / 2 ^ 60 = 0 → w &&& 0xFFFFFFFF00000000 ≠ 0x0000000000000000 → decode w = .error .reservedBits

/-- 43_accumulator.md R93: INIT completes in every phase, from every state, and writes exactly H, PEND, LEN, DV and PHASE; a
second INIT changes nothing; the words are those of its match and mask. -/
def Obligations.InitOpensFreshSession : Prop :=
  ∀ s t : State,
    t = { s with
      h := #v[0x6a09e667, 0xbb67ae85, 0x3c6ef372, 0xa54ff53a, 0x510e527f, 0x9b05688c, 0x1f83d9ab, 0x5be0cd19]
      pend := 0, len := 0, dv := false, phase := .fresh } →
    exec .init s = .next t ∧ exec .init t = .next t ∧
    (s.port = .ready → ∀ w : Word64, w &&& 0xFFFFFFFF00000000 = 0x1000000000000000 → transact w s = .next t)

/-- 43_accumulator.md R94 and R96: in an open session an UPDATE that does not fill the block completes, appends its bytes at
`PEND`, adds `NB` to LEN, moves to ACCUM, and leaves every other field and every other byte of BUF as it was. The model's choice
(log entry 5): that the stale bytes of BUF, from the new PEND on, keep their values, which R101 leaves open. -/
def Obligations.UpdateBuffersBeat : Prop :=
  ∀ (bytes : List Byte) (s : State),
    bytes.length ≤ 4 → (s.phase = .fresh ∨ s.phase = .accum) → s.pend.val + bytes.length < 64 →
    ∃ t : State, exec (.update bytes) s = .next t ∧
      t = { s with buf := t.buf, pend := t.pend, len := t.len, phase := .accum } ∧
      t.pend.val = s.pend.val + bytes.length ∧
      t.len.toNat = (s.len.toNat + bytes.length) % 2 ^ 64 ∧
      ∀ j : Fin 64, t.buf[j] =
        if s.pend.val ≤ j.val ∧ j.val < s.pend.val + bytes.length then bytes.getD (j.val - s.pend.val) 0 else s.buf[j]

/-- 43_accumulator.md R94, R95 and R96: in an open session an UPDATE that fills the block completes, compresses exactly the 64
bytes of that block, puts the rest of the beat at the front of BUF, adds `NB` to LEN, moves to ACCUM, and leaves every other
field as it was. The model's choice (log entry 5): that the stale bytes of BUF, from the new PEND on, are those of the
compressed block, which R101 leaves open. -/
def Obligations.UpdateCompressesFullBlock : Prop :=
  ∀ (bytes : List Byte) (s : State) (block : Block),
    bytes.length ≤ 4 → (s.phase = .fresh ∨ s.phase = .accum) → 64 ≤ s.pend.val + bytes.length →
    (∀ j : Fin 64, block[j] = if j.val < s.pend.val then s.buf[j] else bytes.getD (j.val - s.pend.val) 0) →
    ∃ t : State, exec (.update bytes) s = .next t ∧
      t = { s with h := compress s.h block, buf := t.buf, pend := t.pend, len := t.len, phase := .accum } ∧
      t.pend.val = s.pend.val + bytes.length - 64 ∧
      t.len.toNat = (s.len.toNat + bytes.length) % 2 ^ 64 ∧
      ∀ j : Fin 64, t.buf[j] =
        if j.val < s.pend.val + bytes.length - 64 then bytes.getD (64 - s.pend.val + j.val) 0 else block[j]

/-- 43_accumulator.md R99: an UPDATE of no byte moves FRESH and ACCUM to ACCUM and changes nothing else; in FINAL it is still
the misuse UPDATE_AFTER_FINALIZE, and in IDLE and ERROR the misuse NO_SESSION. -/
def Obligations.UpdateOfNoByte : Prop :=
  ∀ s : State,
    ((s.phase = .fresh ∨ s.phase = .accum) → exec (.update []) s = .next { s with phase := .accum }) ∧
    (s.phase = .final → exec (.update []) s = .next (s.raiseError .updateAfterFinalize)) ∧
    (s.phase = .idle ∨ s.phase = .error → exec (.update []) s = .next (s.raiseError .noSession))

/-- 44_finalizer.md R102, R103, R104, R106, R107 and R108: in an open session with `PEND <= 55` FINALIZE completes, compresses
the one block that holds the pending bytes, `0x80`, zeros and the bit count, and writes H, DIGEST, DV, PEND and PHASE, nothing
else. The model's choice (log entry 5): that BUF, all of it stale afterwards, keeps its bytes. -/
def Obligations.FinalizeWithOneBlock : Prop :=
  ∀ (s : State) (b1 : Block),
    (s.phase = .fresh ∨ s.phase = .accum) → s.pend.val ≤ 55 →
    (∀ j : Fin 64, b1[j] =
      if j < s.pend then s.buf[j] else if j = s.pend then 0x80 else if j.val < 56 then 0
      else BitVec.ofNat 8 (s.len.toNat * 8 % 2 ^ 64 / 2 ^ (504 - 8 * j.val))) →
    exec .finalize s = .next { s with
      h := compress s.h b1, digest := compress s.h b1, dv := true, pend := 0, phase := .final }

/-- 44_finalizer.md R102, R103, R105, R106, R107 and R108: in an open session with `PEND >= 56` FINALIZE completes, compresses
the block of the pending bytes, `0x80` and zeros, then the block of zeros and the bit count, and writes H, DIGEST, DV, PEND and
PHASE, nothing else. The model's choice (log entry 5): that BUF, all of it stale afterwards, keeps its bytes. -/
def Obligations.FinalizeWithTwoBlocks : Prop :=
  ∀ (s : State) (b1 b2 : Block),
    (s.phase = .fresh ∨ s.phase = .accum) → 56 ≤ s.pend.val →
    (∀ j : Fin 64, b1[j] = if j < s.pend then s.buf[j] else if j = s.pend then 0x80 else 0) →
    (∀ j : Fin 64, b2[j] =
      if j.val < 56 then 0 else BitVec.ofNat 8 (s.len.toNat * 8 % 2 ^ 64 / 2 ^ (504 - 8 * j.val))) →
    exec .finalize s = .next { s with
      h := compress (compress s.h b1) b2, digest := compress (compress s.h b1) b2
      dv := true, pend := 0, phase := .final }

/-- 44_finalizer.md R113: with no byte delivered since INIT, FINALIZE completes, compresses the single block `80 00 .. 00`
from IV, and gives the empty message's digest. -/
def Obligations.EmptyStreamDigest : Prop :=
  ∀ s : State,
    (s.phase = .fresh ∨ s.phase = .accum) → s.h = initialHash → s.pend = 0 → s.len = 0 →
    ∃ t : State, exec .finalize s = .next t ∧ t.phase = .final ∧ t.dv = true ∧
      (∀ b : Block, (∀ j : Fin 64, b[j] = if j.val = 0 then 0x80 else 0) → t.h = compress initialHash b) ∧
      t.digest = #v[0xe3b0c442, 0x98fc1c14, 0x9afbf4c8, 0x996fb924, 0x27ae41e4, 0x649b934c, 0xa495991b, 0x7852b855]

/-- 44_finalizer.md R106 and 40_word_functions.md R77: the length field is the bit count `LEN * 8` modulo 2^64, most
significant byte first, and equals `LEN[60:0]` with three zero bits below. -/
def Obligations.LengthFieldIsBigEndianBitCount : Prop :=
  ∀ (len : Word64),
    (∀ i : Fin 8, ((lengthField len)[i]).toNat = len.toNat * 8 % 2 ^ 64 / 2 ^ (56 - 8 * i.val) % 256) ∧
    ((List.range 8).foldl (fun n i => n * 256 + ((lengthField len).toList.getD i 0).toNat) 0 =
      len.toNat % 2 ^ 61 * 8)

/-! ### Errors -/

/-- 60_exceptions.md R115, R116, R121, R122 and R123: UPDATE (any `NB`) in FINAL is cause 1, FINALIZE in FINAL cause 2, either
in IDLE or ERROR cause 3; error entry writes ERR_MISUSE, CAUSE (the first error wins), PHASE and DV, nothing else. -/
def Obligations.MisuseEntersError : Prop :=
  ∀ (s : State) (c : Cause), ∀ t : State,
    t = { s with errMisuse := true, cause := if s.cause = .none then c else s.cause, phase := .error, dv := false } →
    (s.phase = .final → c.code = 1 → ∀ bytes : List Byte, exec (.update bytes) s = .next t) ∧
    (s.phase = .final → c.code = 2 → exec .finalize s = .next t) ∧
    (s.phase = .idle ∨ s.phase = .error → c.code = 3 →
      exec .finalize s = .next t ∧ ∀ bytes : List Byte, exec (.update bytes) s = .next t)

/-- 30_encoding.md R57, R58 and 60_exceptions.md R121 to R123: a word that is no command, accepted in any phase, completes by
error entry: ERR_ILLEGAL, CAUSE (the first error wins), PHASE and DV are written, nothing else. -/
def Obligations.IllegalWordEntersError : Prop :=
  ∀ (s : State) (w : Word64) (c : Cause),
    s.port = .ready →
    (decode w = .error .illegalOpcode ∧ c.code = 4 ∨ decode w = .error .reservedBits ∧ c.code = 5 ∨
      decode w = .error .badLength ∧ c.code = 6) →
    transact w s = .next { s with
      errIllegal := true, cause := if s.cause = .none then c else s.cause, phase := .error, dv := false }

/-- 10_state.md R25 and R26, 60_exceptions.md R125 and R126: no step but a reset clears an error bit or changes a recorded
cause. -/
def Obligations.ErrorsAreStickyUntilReset : Prop :=
  ∀ s t : State, s.host.head? ≠ some .reset → step s = .next t →
    (s.errMisuse = true → t.errMisuse = true) ∧ (s.errIllegal = true → t.errIllegal = true) ∧
    (s.cause ≠ .none → t.cause = s.cause)

/-- 60_exceptions.md R124 and R125: the only word that leaves the ERROR phase is INIT; a NOP changes nothing there. -/
def Obligations.OnlyInitLeavesError : Prop :=
  ∀ (s : State) (w : Word64), s.port = .ready → s.phase = .error →
    ∃ t : State, transact w s = .next t ∧ (t.phase ≠ .error ↔ decode w = .ok .init) ∧
      (decode w = .ok .nop → t = s)

/-! ### The session state machine and the step -/

/-- 43_accumulator.md R100: the phase after every word, in every phase. -/
def Obligations.PhaseFollowsTransitionTable : Prop :=
  ∀ (s : State) (w : Word64), s.port = .ready →
    ∃ t : State, transact w s = .next t ∧
      t.phase = match decode w, s.phase with
        | .ok .nop, p => p
        | .ok .init, _ => .fresh
        | .ok (.update _), .fresh => .accum
        | .ok (.update _), .accum => .accum
        | .ok .finalize, .fresh => .final
        | .ok .finalize, .accum => .final
        | _, _ => .error

/-- 10_state.md R34 and 70_reset_and_hazards.md R136: every field the spec gives a reset value, `cmd_ready`, and what the
read port returns. The empty host list and the counter are the model's choice and not claimed. -/
def Obligations.ResetStateValues : Prop :=
  State.reset.phase.code = 0 ∧ (∀ i : Fin 8, State.reset.h[i] = 0) ∧ (∀ j : Fin 64, State.reset.buf[j] = 0) ∧
  State.reset.pend = 0 ∧ State.reset.len = 0 ∧ (∀ i : Fin 8, State.reset.digest[i] = 0) ∧ State.reset.dv = false ∧
  State.reset.errMisuse = false ∧ State.reset.errIllegal = false ∧ State.reset.cause.code = 0 ∧
  State.reset.busy = false ∧ State.reset.cmdReady = true ∧ ∀ a : BitVec 4, State.reset.rdData a = 0

/-- 43_accumulator.md R100, 00_scope.md R12: when the host presents a word at a ready port and the word decodes to an
instruction, the step is `exec` of it, with BUSY 1 during the execution and 0 after it (10_state.md R33). -/
def Obligations.StepRunsDecodedCommand : Prop :=
  ∀ (s : State) (w : Word64) (i : Instr) (rest : List HostInput),
    s.port = .ready → s.host = .command w :: rest → decode w = .ok i →
    step s = onNext State.release (exec i { s with host := rest, port := .executing w })

/-- 70_reset_and_hazards.md R148, 60_exceptions.md R134: from every state the step answers a next state, and so does every
instruction; no step stops. -/
def Obligations.EveryStepCompletes : Prop :=
  (∀ s : State, ∃ t : State, step s = .next t) ∧ ∀ (i : Instr) (s : State), ∃ t : State, exec i s = .next t

/-- 10_state.md R33 and 70_reset_and_hazards.md R143: between acceptance and completion BUSY is 1 and every other bit of the
read port is the state's from before; whatever the host does next but a reset, the next step completes the command, with the
state of the whole command, and a word that is then waiting is taken by the step after it. -/
def Obligations.AcceptedWordCommitsAtCompletion : Prop :=
  ∀ (s : State) (w : Word64) (next : List HostInput),
    s.port = .ready → s.host = .accept w :: next →
    ∃ t : State, step s = .next t ∧ t.busy = true ∧ t.cmdReady = false ∧ t.host = next ∧
      t.rdData 0 = s.rdData 0 ||| 0x80000000 ∧ (∀ a : BitVec 4, a ≠ 0 → t.rdData a = s.rdData a) ∧
      (next.head? ≠ some .reset →
        ∃ u : State, step t = .next u ∧ u.busy = false ∧ u.cmdReady = true ∧
          transact w { s with host := u.host } = .next u ∧
          (next = [] → u.host = []) ∧
          (∀ rest : List HostInput, next = .wait :: rest → u.host = rest) ∧
          (∀ (v : Word64) (rest : List HostInput), next = .accept v :: rest →
            u.host = next ∧ step u = .next { u with host := rest, port := .executing v }) ∧
          ∀ (v : Word64) (rest : List HostInput), next = .command v :: rest →
            u.host = next ∧ step u = transact v { u with host := rest })

/-- 70_reset_and_hazards.md R141: a word presented while a command executes is held: the step completes that command, with
its effect, and the word is taken by the step after it, once. -/
def Obligations.HeldWordIsTakenOnce : Prop :=
  ∀ (s : State) (w v : Word64) (rest : List HostInput),
    s.port = .executing v → s.host = .command w :: rest →
    ∃ t u : State, step s = .next t ∧ completeWord v s = .next t ∧ t.port = .ready ∧ t.host = .command w :: rest ∧
      step t = .next u ∧ u.port = .ready ∧ u.host = rest ∧ transact w { t with host := rest } = .next u

/-- 70_reset_and_hazards.md R136 and R137: reset, asserted at any time, holds `cmd_ready` at 0; when it has ended every field
has its reset value, whatever command was in progress, and a word presented in reset has only been held. The host's further
plans and the model's counter are not reset. -/
def Obligations.ResetAbandonsEverything : Prop :=
  ∀ (s : State) (rest : List HostInput), s.host = .reset :: rest →
    ∃ t : State, step s = .next t ∧ t.cmdReady = false ∧ t.host = rest ∧
      ∀ hs : List HostInput, ∃ u : State,
        step { t with host := .wait :: hs } = .next u ∧
        u = { State.reset with host := hs, freeIx := u.freeIx } ∧ u.cmdReady = true ∧ u.rdData 0 = 0 ∧
        ∀ w : Word64, ∃ v : State,
          step { t with host := .command w :: hs } = .next v ∧
          v = { State.reset with host := .command w :: hs, freeIx := v.freeIx }

/-- 70_reset_and_hazards.md R145: idle cycles between commands change nothing, and a core whose host does nothing holds its
state. -/
def Obligations.IdleCyclesChangeNothing : Prop :=
  ∀ s : State, s.port = .ready →
    (s.host = [] → step s = .next s) ∧
    (∀ rest : List HostInput, s.host = .wait :: rest → step s = .next { s with host := rest })

/-! ### The read port -/

/-- 10_state.md R31: every field of STATUS, and its reserved bits. -/
def Obligations.StatusLayout : Prop :=
  ∀ s : State,
    s.status.extractLsb' 0 3 = s.phase.code ∧ s.status.getLsbD 3 = s.dv ∧ s.status.getLsbD 4 = s.errMisuse ∧
    s.status.getLsbD 5 = s.errIllegal ∧ s.status.extractLsb' 6 2 = 0 ∧ s.status.extractLsb' 8 4 = s.cause.code ∧
    s.status.extractLsb' 12 4 = 0 ∧ (s.status.extractLsb' 16 6).toNat = s.pend.val ∧ s.status.extractLsb' 22 9 = 0 ∧
    s.status.getLsbD 31 = s.busy ∧ State.reset.status = 0x00000000

/-- 10_state.md R30 to R32, 20_memory.md R44: the register map, for all fields outside reset, and for the reserved addresses
and the reserved bits of STATUS always. What the fields read in reset is the model's free value (log entry 4), of which
nothing is claimed. -/
def Obligations.ReadPortMap : Prop :=
  ∀ s : State,
    (∀ a : BitVec 4, 3 ≤ a.toNat → a.toNat ≤ 7 → s.rdData a = 0x00000000) ∧ s.rdData 0x0 &&& 0x7FC0F0C0 = 0 ∧
    (s.port ≠ .inReset →
      s.rdData 0x0 = s.status ∧
      (s.rdData 0x1).toNat = s.len.toNat % 2 ^ 32 ∧ (s.rdData 0x2).toNat = s.len.toNat / 2 ^ 32 ∧
      ∀ i : Fin 8, s.rdData (BitVec.ofNat 4 (8 + i.val)) = s.digest[i])

/-- 20_memory.md R39: the 32-byte form of the digest, each word most significant byte first, words in index order. -/
def Obligations.DigestBytesAreBigEndian : Prop :=
  ∀ (s : State) (i : Fin 8) (k : Fin 4),
    (s.digestBytes.toList.getD (4 * i.val + k.val) 0).toNat = (s.digest[i]).toNat / 2 ^ (24 - 8 * k.val) % 256

/-! ### Frames and invariants over all instructions -/

/-- 10_state.md R15, R21, R23 to R26 and R33, 43_accumulator.md R94, 44_finalizer.md R102, 60_exceptions.md R121: which
command may write which field. DIGEST only FINALIZE in an open session, where it
becomes the new H; BUF only UPDATE; LEN only INIT and UPDATE; the error fields no legal command; the port and the host's list
none. The model's choice (log entry 5): that no other command writes the stale bytes of BUF, which R101 leaves open. -/
def Obligations.WhoWritesWhat : Prop :=
  ∀ (i : Instr) (s t : State), exec i s = .next t →
    (t.digest = s.digest ∨ i = .finalize ∧ s.phase.isOpen = true ∧ t.digest = t.h ∧ t.dv = true) ∧
    (t.h = s.h ∨ i = .init ∨ i ≠ .nop ∧ s.phase.isOpen = true) ∧
    (t.buf = s.buf ∨ (∃ bytes : List Byte, i = .update bytes) ∧ s.phase.isOpen = true) ∧
    (t.len = s.len ∨ i = .init ∨ (∃ bytes : List Byte, i = .update bytes) ∧ s.phase.isOpen = true) ∧
    (t.errMisuse = s.errMisuse ∧ t.cause = s.cause ∨
      t.phase = .error ∧ s.phase.isOpen = false ∧ (i = .finalize ∨ ∃ bytes : List Byte, i = .update bytes)) ∧
    t.errIllegal = s.errIllegal ∧ t.port = s.port ∧ t.host = s.host ∧ t.freeIx = s.freeIx

/-- 43_accumulator.md R101: states that differ only in the stale bytes `BUF[PEND..63]` stay so under every command and every
word, and the read port shows the same. -/
def Obligations.StaleBytesAreNeverRead : Prop :=
  ∀ s t : State, s.sameButStale t →
    (∀ i : Instr, ∃ s' t' : State, exec i s = .next s' ∧ exec i t = .next t' ∧ s'.sameButStale t') ∧
    (∀ w : Word64, ∃ s' t' : State, transact w s = .next s' ∧ transact w t = .next t' ∧ s'.sameButStale t') ∧
    ∀ a : BitVec 4, s.rdData a = t.rdData a

/-- 60_exceptions.md R135: DV becomes 1 by a successful FINALIZE and stays 1 through NOP alone; INIT and error entry clear it. -/
def Obligations.DigestValidTransitions : Prop :=
  ∀ (s t : State) (w : Word64), s.Inv → s.port = .ready → transact w s = .next t →
    (t.dv = true ↔ (decode w = .ok .finalize ∧ s.phase.isOpen = true) ∨ (decode w = .ok .nop ∧ s.dv = true))

/-- Every step of the core keeps the invariant, from every state that has it. -/
def Obligations.EveryStepKeepsInvariant : Prop :=
  ∀ s t : State, s.Inv → step s = .next t → t.Inv

/-- The state after reset has the invariant. -/
def Obligations.ResetHasInvariant : Prop := State.reset.Inv

/-! ### Streams -/

/-- 43_accumulator.md R98: in an open session, two sequences of beats that deliver the same bytes leave the same H, PEND, LEN
and pending bytes, and the same PHASE unless one sequence is empty; and FINALIZE then gives the same digest. -/
def Obligations.ChunkBoundariesDoNotMatter : Prop :=
  ∀ (s : State) (xs ys : List (List Byte)),
    s.phase.isOpen = true → (∀ b ∈ xs ++ ys, b.length ≤ 4) → xs.flatten = ys.flatten →
    ∃ t u : State, runInstrs (xs.map .update) s = .next t ∧ runInstrs (ys.map .update) s = .next u ∧
      t.h = u.h ∧ t.pend = u.pend ∧ t.len = u.len ∧ t.pendingBytes = u.pendingBytes ∧
      (xs ≠ [] → ys ≠ [] → t.phase = u.phase) ∧
      ∃ t' u' : State, exec .finalize t = .next t' ∧ exec .finalize u = .next u' ∧ t'.digest = u'.digest ∧
        t'.dv = true ∧ u'.dv = true

/-- 30_encoding.md R62: UPDATE_CHUNK delivers the chunk, in `ceil(n/4)` beats, each full but the last; one UPDATE of no byte
for the empty chunk. -/
def Obligations.UpdateChunkExpansion : Prop :=
  updateChunk [] = [.update []] ∧
  ∀ bytes : List Byte, bytes ≠ [] →
    updateChunk bytes = (List.range ((bytes.length + 3) / 4)).map fun i => .update ((bytes.drop (4 * i)).take 4)

/-- 30_encoding.md R63: from every state, in any phase, the expansion of HASH ends in FINAL with the digest of the bytes,
provided there are fewer than 2^61. -/
def Obligations.HashCommandsGiveDigest : Prop :=
  ∀ (s : State) (m : List Byte), m.length < 2 ^ 61 →
    ∃ t : State, runInstrs (hashCommands m) s = .next t ∧ t.phase = .final ∧ t.dv = true ∧ t.digest = sha256 m

/-- 44_finalizer.md R110: the padded message is `64 * (floor(N/64) + 1)` or `64 * (floor(N/64) + 2)` bytes long, begins with
the message, and ends with the bit count. -/
def Obligations.PaddedMessageShape : Prop :=
  ∀ m : List Byte,
    (padMessage m).length = 64 * (m.length / 64 + (if m.length % 64 ≤ 55 then 1 else 2)) ∧
    (padMessage m).take m.length = m ∧ (padMessage m).getD m.length 0 = 0x80 ∧
    (∀ j : Nat, m.length < j → j + 8 < (padMessage m).length → (padMessage m).getD j 0 = 0) ∧
    ∀ k : Nat, k < 8 →
      ((padMessage m).getD ((padMessage m).length - 8 + k) 0).toNat =
        m.length * 8 % 2 ^ 64 / 2 ^ (56 - 8 * k) % 256

/-- 42_compression.md R91, 43_accumulator.md R96 and R97, 44_finalizer.md R112: the core holds the session through every
command word. -/
def Obligations.CoreHoldsTheSession : Prop :=
  ∀ (s : State) (σ : Session) (w : Word64), s.port = .ready → s.Holds σ →
    ∃ t : State, transact w s = .next t ∧ t.port = .ready ∧ t.Holds (σ.after (decode w))

/-- 20_memory.md R45: the steps of a core whose host presents a sequence of words run them one at a time, in order, each to
its completion, and take no more of the host's list (the model's own, log entry 1). -/
def Obligations.StepsRunWordsInOrder : Prop :=
  ∀ (ws : List Word64) (rest : List HostInput) (s : State), s.port = .ready → s.host = ws.map .command ++ rest →
    ∃ t : State, runSteps ws.length s = .next t ∧ runWords ws { s with host := rest } = .next t ∧
      t.port = .ready ∧ t.host = rest

/-- 70_reset_and_hazards.md R147, 60_exceptions.md R135: a run of any words from reset whose final state has PHASE = FINAL and
DV = 1 has in DIGEST the digest of the bytes of the legal UPDATEs since the last INIT, below 2^61 bytes; and DV is 1 there only
if the session ended by FINALIZE. -/
def Obligations.RunDigestIsOfDeliveredStream : Prop :=
  ∀ ws : List Word64, ∃ t : State, runWords ws State.reset = .next t ∧
    t.phase = (sessionOf ws).phase ∧ (t.dv = true ↔ t.phase = .final) ∧
    (t.producesDigest = true → (sessionOf ws).msg.length < 2 ^ 61 → t.digest = sha256 (sessionOf ws).msg)

/-! ### Host side -/

/-- 30_encoding.md R61: the words of the assembler's lines, and the lines it refuses. -/
def Obligations.AssemblerLines : Prop :=
  assemble .nop = some [0x0000000000000000] ∧ assemble .init = some [0x1000000000000000] ∧
  assemble .finalize = some [0x3000000000000000] ∧ assemble (.update []) = some [0x2000000000000000] ∧
  assemble (.updateString ['a', 'b', 'c']) = some [0x2000000361626300] ∧
  (∀ w : Word64, assemble (.word64 w) = some [w]) ∧
  (∀ bs : List Nat, (4 < bs.length ∨ ∃ b ∈ bs, 255 < b) → assemble (.update bs) = none) ∧
  ∀ b0 b1 b2 b3 : Byte,
    assemble (.update [b0.toNat, b1.toNat, b2.toNat, b3.toNat]) =
      some [(0x20000004 : Word) ++ (b0 ++ b1 ++ b2 ++ b3)]

/-- 20_memory.md R48, 60_exceptions.md R131: a step of one core of a platform is that core's own step, and leaves every other
core as it was. -/
def Obligations.CoresAreIndependent : Prop :=
  ∀ (cores : List State) (i : Nat) (s t : State), cores[i]? = some s → step s = .next t →
    (platformStep cores i)[i]? = some t ∧ ∀ j : Nat, j ≠ i → (platformStep cores i)[j]? = cores[j]?
end

