-- ==== Sys2Proof/Laws/Decode.lean ====
section
/-! SUPPORT. The fields of a word as numbers, and the lanes of packed bytes, stated once. -/

namespace Sys2Proof

theorem opField_toNat (w : Word64) : (opField w).toNat = w.toNat / 2 ^ 60 := by
  simp only [opField, BitVec.extractLsb'_toNat, Nat.shiftRight_eq_div_pow]; omega

theorem rsvField_toNat (w : Word64) : (rsvField w).toNat = w.toNat / 2 ^ 35 % 2 ^ 25 := by
  simp only [rsvField, BitVec.extractLsb'_toNat, Nat.shiftRight_eq_div_pow]

theorem nbField_toNat (w : Word64) : (nbField w).toNat = w.toNat / 2 ^ 32 % 8 := by
  simp only [nbField, BitVec.extractLsb'_toNat, Nat.shiftRight_eq_div_pow]

/-- The lanes of four packed bytes are the bytes. -/
theorem lanes_append (a b c d : Byte) : lanes (a ++ b ++ c ++ d) = [a, b, c, d] := by
  have lane : ∀ k < 4, ∀ i < 8, (a ++ b ++ c ++ d).getLsbD (8 * k + i) = ([d, c, b, a].getD k 0).getLsbD i := by
    intro k hk i hi
    simp only [BitVec.getLsbD_append]
    interval_cases k
    · rw [if_pos (by omega)]; simp
    · rw [if_neg (by omega), if_pos (by omega)]; simp
    · rw [if_neg (by omega), if_neg (by omega), if_pos (by omega), show 8 * 2 + i - 8 - 8 = i by omega]; simp
    · rw [if_neg (by omega), if_neg (by omega), if_neg (by omega), show 8 * 3 + i - 8 - 8 - 8 = i by omega]; simp
  have byte : ∀ k < 4, (a ++ b ++ c ++ d).extractLsb' (8 * k) 8 = [d, c, b, a].getD k 0 := by
    intro k hk
    apply BitVec.eq_of_getLsbD_eq
    intro i hi
    rw [BitVec.getLsbD_extractLsb', lane k hk i hi, decide_eq_true hi, Bool.true_and]
  exact List.cons_eq_cons.2 ⟨byte 3 (by omega), List.cons_eq_cons.2 ⟨byte 2 (by omega),
    List.cons_eq_cons.2 ⟨byte 1 (by omega), List.cons_eq_cons.2 ⟨byte 0 (by omega), rfl⟩⟩⟩⟩

end Sys2Proof
end

