-- ==== Sys2Proof/Laws/State.lean ====
section
/-! SUPPORT. One lemma per field per named update of Machine/Ops.lean, each true by unfolding, so that no later proof unfolds
a record update. -/

namespace Sys2Proof.Machine

@[simp] theorem State.bufWrite_phase (s : State) (i : Fin 64) (b : Byte) : (s.bufWrite i b).phase = s.phase := rfl
@[simp] theorem State.bufWrite_h (s : State) (i : Fin 64) (b : Byte) : (s.bufWrite i b).h = s.h := rfl
@[simp] theorem State.bufWrite_buf (s : State) (i : Fin 64) (b : Byte) : (s.bufWrite i b).buf = s.buf.set i.val b i.isLt := rfl
@[simp] theorem State.bufWrite_pend (s : State) (i : Fin 64) (b : Byte) : (s.bufWrite i b).pend = s.pend := rfl
@[simp] theorem State.bufWrite_len (s : State) (i : Fin 64) (b : Byte) : (s.bufWrite i b).len = s.len := rfl
@[simp] theorem State.bufWrite_digest (s : State) (i : Fin 64) (b : Byte) : (s.bufWrite i b).digest = s.digest := rfl
@[simp] theorem State.bufWrite_dv (s : State) (i : Fin 64) (b : Byte) : (s.bufWrite i b).dv = s.dv := rfl
@[simp] theorem State.bufWrite_errMisuse (s : State) (i : Fin 64) (b : Byte) : (s.bufWrite i b).errMisuse = s.errMisuse := rfl
@[simp] theorem State.bufWrite_errIllegal (s : State) (i : Fin 64) (b : Byte) : (s.bufWrite i b).errIllegal = s.errIllegal := rfl
@[simp] theorem State.bufWrite_cause (s : State) (i : Fin 64) (b : Byte) : (s.bufWrite i b).cause = s.cause := rfl
@[simp] theorem State.bufWrite_port (s : State) (i : Fin 64) (b : Byte) : (s.bufWrite i b).port = s.port := rfl
@[simp] theorem State.bufWrite_host (s : State) (i : Fin 64) (b : Byte) : (s.bufWrite i b).host = s.host := rfl
@[simp] theorem State.bufWrite_freeIx (s : State) (i : Fin 64) (b : Byte) : (s.bufWrite i b).freeIx = s.freeIx := rfl

@[simp] theorem State.setPend_phase (s : State) (p : Fin 64) : (s.setPend p).phase = s.phase := rfl
@[simp] theorem State.setPend_h (s : State) (p : Fin 64) : (s.setPend p).h = s.h := rfl
@[simp] theorem State.setPend_buf (s : State) (p : Fin 64) : (s.setPend p).buf = s.buf := rfl
@[simp] theorem State.setPend_pend (s : State) (p : Fin 64) : (s.setPend p).pend = p := rfl
@[simp] theorem State.setPend_len (s : State) (p : Fin 64) : (s.setPend p).len = s.len := rfl
@[simp] theorem State.setPend_digest (s : State) (p : Fin 64) : (s.setPend p).digest = s.digest := rfl
@[simp] theorem State.setPend_dv (s : State) (p : Fin 64) : (s.setPend p).dv = s.dv := rfl
@[simp] theorem State.setPend_errMisuse (s : State) (p : Fin 64) : (s.setPend p).errMisuse = s.errMisuse := rfl
@[simp] theorem State.setPend_errIllegal (s : State) (p : Fin 64) : (s.setPend p).errIllegal = s.errIllegal := rfl
@[simp] theorem State.setPend_cause (s : State) (p : Fin 64) : (s.setPend p).cause = s.cause := rfl
@[simp] theorem State.setPend_port (s : State) (p : Fin 64) : (s.setPend p).port = s.port := rfl
@[simp] theorem State.setPend_host (s : State) (p : Fin 64) : (s.setPend p).host = s.host := rfl
@[simp] theorem State.setPend_freeIx (s : State) (p : Fin 64) : (s.setPend p).freeIx = s.freeIx := rfl

@[simp] theorem State.setPhase_phase (s : State) (p : Phase) : (s.setPhase p).phase = p := rfl
@[simp] theorem State.setPhase_h (s : State) (p : Phase) : (s.setPhase p).h = s.h := rfl
@[simp] theorem State.setPhase_buf (s : State) (p : Phase) : (s.setPhase p).buf = s.buf := rfl
@[simp] theorem State.setPhase_pend (s : State) (p : Phase) : (s.setPhase p).pend = s.pend := rfl
@[simp] theorem State.setPhase_len (s : State) (p : Phase) : (s.setPhase p).len = s.len := rfl
@[simp] theorem State.setPhase_digest (s : State) (p : Phase) : (s.setPhase p).digest = s.digest := rfl
@[simp] theorem State.setPhase_dv (s : State) (p : Phase) : (s.setPhase p).dv = s.dv := rfl
@[simp] theorem State.setPhase_errMisuse (s : State) (p : Phase) : (s.setPhase p).errMisuse = s.errMisuse := rfl
@[simp] theorem State.setPhase_errIllegal (s : State) (p : Phase) : (s.setPhase p).errIllegal = s.errIllegal := rfl
@[simp] theorem State.setPhase_cause (s : State) (p : Phase) : (s.setPhase p).cause = s.cause := rfl
@[simp] theorem State.setPhase_port (s : State) (p : Phase) : (s.setPhase p).port = s.port := rfl
@[simp] theorem State.setPhase_host (s : State) (p : Phase) : (s.setPhase p).host = s.host := rfl
@[simp] theorem State.setPhase_freeIx (s : State) (p : Phase) : (s.setPhase p).freeIx = s.freeIx := rfl

@[simp] theorem State.compressBlock_phase (s : State) (b : Block) : (s.compressBlock b).phase = s.phase := rfl
@[simp] theorem State.compressBlock_h (s : State) (b : Block) : (s.compressBlock b).h = compress s.h b := rfl
@[simp] theorem State.compressBlock_buf (s : State) (b : Block) : (s.compressBlock b).buf = s.buf := rfl
@[simp] theorem State.compressBlock_pend (s : State) (b : Block) : (s.compressBlock b).pend = s.pend := rfl
@[simp] theorem State.compressBlock_len (s : State) (b : Block) : (s.compressBlock b).len = s.len := rfl
@[simp] theorem State.compressBlock_digest (s : State) (b : Block) : (s.compressBlock b).digest = s.digest := rfl
@[simp] theorem State.compressBlock_dv (s : State) (b : Block) : (s.compressBlock b).dv = s.dv := rfl
@[simp] theorem State.compressBlock_errMisuse (s : State) (b : Block) : (s.compressBlock b).errMisuse = s.errMisuse := rfl
@[simp] theorem State.compressBlock_errIllegal (s : State) (b : Block) : (s.compressBlock b).errIllegal = s.errIllegal := rfl
@[simp] theorem State.compressBlock_cause (s : State) (b : Block) : (s.compressBlock b).cause = s.cause := rfl
@[simp] theorem State.compressBlock_port (s : State) (b : Block) : (s.compressBlock b).port = s.port := rfl
@[simp] theorem State.compressBlock_host (s : State) (b : Block) : (s.compressBlock b).host = s.host := rfl
@[simp] theorem State.compressBlock_freeIx (s : State) (b : Block) : (s.compressBlock b).freeIx = s.freeIx := rfl

@[simp] theorem State.addLen_phase (s : State) (n : Nat) : (s.addLen n).phase = s.phase := rfl
@[simp] theorem State.addLen_h (s : State) (n : Nat) : (s.addLen n).h = s.h := rfl
@[simp] theorem State.addLen_buf (s : State) (n : Nat) : (s.addLen n).buf = s.buf := rfl
@[simp] theorem State.addLen_pend (s : State) (n : Nat) : (s.addLen n).pend = s.pend := rfl
@[simp] theorem State.addLen_len (s : State) (n : Nat) : (s.addLen n).len = s.len + BitVec.ofNat 64 n := rfl
@[simp] theorem State.addLen_digest (s : State) (n : Nat) : (s.addLen n).digest = s.digest := rfl
@[simp] theorem State.addLen_dv (s : State) (n : Nat) : (s.addLen n).dv = s.dv := rfl
@[simp] theorem State.addLen_errMisuse (s : State) (n : Nat) : (s.addLen n).errMisuse = s.errMisuse := rfl
@[simp] theorem State.addLen_errIllegal (s : State) (n : Nat) : (s.addLen n).errIllegal = s.errIllegal := rfl
@[simp] theorem State.addLen_cause (s : State) (n : Nat) : (s.addLen n).cause = s.cause := rfl
@[simp] theorem State.addLen_port (s : State) (n : Nat) : (s.addLen n).port = s.port := rfl
@[simp] theorem State.addLen_host (s : State) (n : Nat) : (s.addLen n).host = s.host := rfl
@[simp] theorem State.addLen_freeIx (s : State) (n : Nat) : (s.addLen n).freeIx = s.freeIx := rfl

@[simp] theorem State.openSession_phase (s : State) : (s.openSession).phase = .fresh := rfl
@[simp] theorem State.openSession_h (s : State) : (s.openSession).h = initialHash := rfl
@[simp] theorem State.openSession_buf (s : State) : (s.openSession).buf = s.buf := rfl
@[simp] theorem State.openSession_pend (s : State) : (s.openSession).pend = 0 := rfl
@[simp] theorem State.openSession_len (s : State) : (s.openSession).len = 0 := rfl
@[simp] theorem State.openSession_digest (s : State) : (s.openSession).digest = s.digest := rfl
@[simp] theorem State.openSession_dv (s : State) : (s.openSession).dv = false := rfl
@[simp] theorem State.openSession_errMisuse (s : State) : (s.openSession).errMisuse = s.errMisuse := rfl
@[simp] theorem State.openSession_errIllegal (s : State) : (s.openSession).errIllegal = s.errIllegal := rfl
@[simp] theorem State.openSession_cause (s : State) : (s.openSession).cause = s.cause := rfl
@[simp] theorem State.openSession_port (s : State) : (s.openSession).port = s.port := rfl
@[simp] theorem State.openSession_host (s : State) : (s.openSession).host = s.host := rfl
@[simp] theorem State.openSession_freeIx (s : State) : (s.openSession).freeIx = s.freeIx := rfl

@[simp] theorem State.latchDigest_phase (s : State) : (s.latchDigest).phase = s.phase := rfl
@[simp] theorem State.latchDigest_h (s : State) : (s.latchDigest).h = s.h := rfl
@[simp] theorem State.latchDigest_buf (s : State) : (s.latchDigest).buf = s.buf := rfl
@[simp] theorem State.latchDigest_pend (s : State) : (s.latchDigest).pend = s.pend := rfl
@[simp] theorem State.latchDigest_len (s : State) : (s.latchDigest).len = s.len := rfl
@[simp] theorem State.latchDigest_digest (s : State) : (s.latchDigest).digest = s.h := rfl
@[simp] theorem State.latchDigest_dv (s : State) : (s.latchDigest).dv = true := rfl
@[simp] theorem State.latchDigest_errMisuse (s : State) : (s.latchDigest).errMisuse = s.errMisuse := rfl
@[simp] theorem State.latchDigest_errIllegal (s : State) : (s.latchDigest).errIllegal = s.errIllegal := rfl
@[simp] theorem State.latchDigest_cause (s : State) : (s.latchDigest).cause = s.cause := rfl
@[simp] theorem State.latchDigest_port (s : State) : (s.latchDigest).port = s.port := rfl
@[simp] theorem State.latchDigest_host (s : State) : (s.latchDigest).host = s.host := rfl
@[simp] theorem State.latchDigest_freeIx (s : State) : (s.latchDigest).freeIx = s.freeIx := rfl

@[simp] theorem State.raiseError_phase (s : State) (c : Cause) : (s.raiseError c).phase = .error := rfl
@[simp] theorem State.raiseError_h (s : State) (c : Cause) : (s.raiseError c).h = s.h := rfl
@[simp] theorem State.raiseError_buf (s : State) (c : Cause) : (s.raiseError c).buf = s.buf := rfl
@[simp] theorem State.raiseError_pend (s : State) (c : Cause) : (s.raiseError c).pend = s.pend := rfl
@[simp] theorem State.raiseError_len (s : State) (c : Cause) : (s.raiseError c).len = s.len := rfl
@[simp] theorem State.raiseError_digest (s : State) (c : Cause) : (s.raiseError c).digest = s.digest := rfl
@[simp] theorem State.raiseError_dv (s : State) (c : Cause) : (s.raiseError c).dv = false := rfl
@[simp] theorem State.raiseError_errMisuse (s : State) (c : Cause) : (s.raiseError c).errMisuse = (s.errMisuse || c.isMisuse) := rfl
@[simp] theorem State.raiseError_errIllegal (s : State) (c : Cause) : (s.raiseError c).errIllegal = (s.errIllegal || c.isIllegal) := rfl
@[simp] theorem State.raiseError_cause (s : State) (c : Cause) : (s.raiseError c).cause = if s.cause = .none then c else s.cause := rfl
@[simp] theorem State.raiseError_port (s : State) (c : Cause) : (s.raiseError c).port = s.port := rfl
@[simp] theorem State.raiseError_host (s : State) (c : Cause) : (s.raiseError c).host = s.host := rfl
@[simp] theorem State.raiseError_freeIx (s : State) (c : Cause) : (s.raiseError c).freeIx = s.freeIx := rfl

@[simp] theorem State.accept_phase (s : State) (w : Word64) : (s.accept w).phase = s.phase := rfl
@[simp] theorem State.accept_h (s : State) (w : Word64) : (s.accept w).h = s.h := rfl
@[simp] theorem State.accept_buf (s : State) (w : Word64) : (s.accept w).buf = s.buf := rfl
@[simp] theorem State.accept_pend (s : State) (w : Word64) : (s.accept w).pend = s.pend := rfl
@[simp] theorem State.accept_len (s : State) (w : Word64) : (s.accept w).len = s.len := rfl
@[simp] theorem State.accept_digest (s : State) (w : Word64) : (s.accept w).digest = s.digest := rfl
@[simp] theorem State.accept_dv (s : State) (w : Word64) : (s.accept w).dv = s.dv := rfl
@[simp] theorem State.accept_errMisuse (s : State) (w : Word64) : (s.accept w).errMisuse = s.errMisuse := rfl
@[simp] theorem State.accept_errIllegal (s : State) (w : Word64) : (s.accept w).errIllegal = s.errIllegal := rfl
@[simp] theorem State.accept_cause (s : State) (w : Word64) : (s.accept w).cause = s.cause := rfl
@[simp] theorem State.accept_port (s : State) (w : Word64) : (s.accept w).port = .executing w := rfl
@[simp] theorem State.accept_host (s : State) (w : Word64) : (s.accept w).host = s.host := rfl
@[simp] theorem State.accept_freeIx (s : State) (w : Word64) : (s.accept w).freeIx = s.freeIx := rfl

@[simp] theorem State.release_phase (s : State) : (s.release).phase = s.phase := rfl
@[simp] theorem State.release_h (s : State) : (s.release).h = s.h := rfl
@[simp] theorem State.release_buf (s : State) : (s.release).buf = s.buf := rfl
@[simp] theorem State.release_pend (s : State) : (s.release).pend = s.pend := rfl
@[simp] theorem State.release_len (s : State) : (s.release).len = s.len := rfl
@[simp] theorem State.release_digest (s : State) : (s.release).digest = s.digest := rfl
@[simp] theorem State.release_dv (s : State) : (s.release).dv = s.dv := rfl
@[simp] theorem State.release_errMisuse (s : State) : (s.release).errMisuse = s.errMisuse := rfl
@[simp] theorem State.release_errIllegal (s : State) : (s.release).errIllegal = s.errIllegal := rfl
@[simp] theorem State.release_cause (s : State) : (s.release).cause = s.cause := rfl
@[simp] theorem State.release_port (s : State) : (s.release).port = .ready := rfl
@[simp] theorem State.release_host (s : State) : (s.release).host = s.host := rfl
@[simp] theorem State.release_freeIx (s : State) : (s.release).freeIx = s.freeIx := rfl

@[simp] theorem State.setHost_phase (s : State) (hs : List HostInput) : (s.setHost hs).phase = s.phase := rfl
@[simp] theorem State.setHost_h (s : State) (hs : List HostInput) : (s.setHost hs).h = s.h := rfl
@[simp] theorem State.setHost_buf (s : State) (hs : List HostInput) : (s.setHost hs).buf = s.buf := rfl
@[simp] theorem State.setHost_pend (s : State) (hs : List HostInput) : (s.setHost hs).pend = s.pend := rfl
@[simp] theorem State.setHost_len (s : State) (hs : List HostInput) : (s.setHost hs).len = s.len := rfl
@[simp] theorem State.setHost_digest (s : State) (hs : List HostInput) : (s.setHost hs).digest = s.digest := rfl
@[simp] theorem State.setHost_dv (s : State) (hs : List HostInput) : (s.setHost hs).dv = s.dv := rfl
@[simp] theorem State.setHost_errMisuse (s : State) (hs : List HostInput) : (s.setHost hs).errMisuse = s.errMisuse := rfl
@[simp] theorem State.setHost_errIllegal (s : State) (hs : List HostInput) : (s.setHost hs).errIllegal = s.errIllegal := rfl
@[simp] theorem State.setHost_cause (s : State) (hs : List HostInput) : (s.setHost hs).cause = s.cause := rfl
@[simp] theorem State.setHost_port (s : State) (hs : List HostInput) : (s.setHost hs).port = s.port := rfl
@[simp] theorem State.setHost_host (s : State) (hs : List HostInput) : (s.setHost hs).host = hs := rfl
@[simp] theorem State.setHost_freeIx (s : State) (hs : List HostInput) : (s.setHost hs).freeIx = s.freeIx := rfl

@[simp] theorem State.assertReset_phase (s : State) : (s.assertReset).phase = .idle := rfl
@[simp] theorem State.assertReset_h (s : State) : (s.assertReset).h = Vector.replicate 8 0 := rfl
@[simp] theorem State.assertReset_buf (s : State) : (s.assertReset).buf = Vector.replicate 64 0 := rfl
@[simp] theorem State.assertReset_pend (s : State) : (s.assertReset).pend = 0 := rfl
@[simp] theorem State.assertReset_len (s : State) : (s.assertReset).len = 0 := rfl
@[simp] theorem State.assertReset_digest (s : State) : (s.assertReset).digest = Vector.replicate 8 0 := rfl
@[simp] theorem State.assertReset_dv (s : State) : (s.assertReset).dv = false := rfl
@[simp] theorem State.assertReset_errMisuse (s : State) : (s.assertReset).errMisuse = false := rfl
@[simp] theorem State.assertReset_errIllegal (s : State) : (s.assertReset).errIllegal = false := rfl
@[simp] theorem State.assertReset_cause (s : State) : (s.assertReset).cause = .none := rfl
@[simp] theorem State.assertReset_port (s : State) : (s.assertReset).port = .inReset := rfl
@[simp] theorem State.assertReset_host (s : State) : (s.assertReset).host = s.host := rfl
@[simp] theorem State.assertReset_freeIx (s : State) : (s.assertReset).freeIx = s.freeIx + 1 := rfl

@[simp] theorem onNext_next (f : State → State) (s : State) : onNext f (.next s) = .next (f s) := rfl

end Sys2Proof.Machine
end

