-- ==== Sys2Proof/Laws/Exec.lean ====
section
/-! SUPPORT. What each shared operation of the commands can do, said once: provers cite these and unfold nothing. -/

namespace Sys2Proof.Machine

theorem isOpen_iff (p : Phase) : p.isOpen = true ↔ p = .fresh ∨ p = .accum := by cases p <;> simp [Phase.isOpen]

/-- The state an instruction leaves. -/
theorem exec_eq (i : Instr) (s : State) :
    exec i s = .next (match i with
      | .nop => s
      | .init => s.openSession
      | .update bytes => if s.phase.isOpen then s.absorb bytes else s.raiseError (updateMisuse s.phase)
      | .finalize => if s.phase.isOpen then s.closeSession else s.raiseError (finalizeMisuse s.phase)) := by
  cases i <;> rfl

/-- One byte of a beat: it is buffered, or it completes the block, which is compressed (43_accumulator.md R94). -/
theorem appendByte_cases (s : State) (b : Byte) :
    (s.pend.val + 1 < 64 ∧ s.appendByte b = (s.bufWrite s.pend b).setPend (s.pend + 1)) ∨
      (s.pend.val = 63 ∧
        s.appendByte b = ((s.bufWrite s.pend b).compressBlock (s.bufWrite s.pend b).buf).setPend 0) := by
  have := s.pend.isLt
  by_cases h : s.pend.val + 1 = 64
  · exact .inr ⟨by omega, by simp [State.appendByte, h]⟩
  · exact .inl ⟨by omega, by simp [State.appendByte, h]⟩

/-- A byte of a beat writes H, BUF and PEND only. -/
theorem appendByte_frame (s : State) (b : Byte) :
    s.appendByte b = { s with h := (s.appendByte b).h, buf := (s.appendByte b).buf, pend := (s.appendByte b).pend } := by
  rcases appendByte_cases s b with ⟨-, h⟩ | ⟨-, h⟩ <;> rw [h] <;> rfl

theorem foldl_appendByte_frame (bytes : List Byte) (s : State) :
    bytes.foldl State.appendByte s =
      { s with
        h := (bytes.foldl State.appendByte s).h
        buf := (bytes.foldl State.appendByte s).buf
        pend := (bytes.foldl State.appendByte s).pend } := by
  induction bytes generalizing s with
  | nil => rfl
  | cons b bytes ih => rw [List.foldl_cons, ih, appendByte_frame s b]

/-- A legal UPDATE writes H, BUF, PEND, LEN and PHASE only (43_accumulator.md R94). -/
theorem absorb_frame (s : State) (bytes : List Byte) :
    s.absorb bytes =
      { s with
        h := (s.absorb bytes).h, buf := (s.absorb bytes).buf, pend := (s.absorb bytes).pend
        len := s.len + BitVec.ofNat 64 bytes.length, phase := .accum } := by
  rw [State.absorb, foldl_appendByte_frame]; rfl

/-- The compressions of FINALIZE write H only. -/
theorem compressPadding_frame (s : State) : s.compressPadding = { s with h := s.compressPadding.h } := by
  unfold State.compressPadding; split <;> rfl

/-- A legal FINALIZE writes H, DIGEST, DV, PEND and PHASE only (44_finalizer.md R102). -/
theorem closeSession_eq (s : State) :
    s.closeSession =
      { s with
        h := s.compressPadding.h, digest := s.compressPadding.h, dv := true, pend := 0, phase := .final } := by
  rw [State.closeSession, compressPadding_frame]; rfl

/-- One byte of a beat does not read what the host does next. -/
theorem appendByte_setHost (s : State) (hs : List HostInput) (b : Byte) :
    (s.setHost hs).appendByte b = (s.appendByte b).setHost hs := by
  by_cases h : s.pend.val + 1 = 64 <;> simp [State.appendByte, h] <;> rfl

theorem foldl_appendByte_setHost (bytes : List Byte) (s : State) (hs : List HostInput) :
    bytes.foldl State.appendByte (s.setHost hs) = (bytes.foldl State.appendByte s).setHost hs := by
  induction bytes generalizing s with
  | nil => rfl
  | cons b bytes ih => simp only [List.foldl_cons, appendByte_setHost, ih]

theorem compressPadding_setHost (s : State) (hs : List HostInput) :
    (s.setHost hs).compressPadding = s.compressPadding.setHost hs := by
  by_cases h : s.pend.val ≤ 55
  · rw [State.compressPadding, State.compressPadding, if_pos h, if_pos (by simpa using h)]; rfl
  · rw [State.compressPadding, State.compressPadding, if_neg h, if_neg (by simpa using h)]; rfl

/-- No command reads what the host does next. -/
theorem exec_setHost (i : Instr) (s : State) (hs : List HostInput) :
    exec i (s.setHost hs) = onNext (fun t => t.setHost hs) (exec i s) := by
  rw [exec_eq, exec_eq, onNext]
  cases i with
  | nop => rfl
  | init => rfl
  | update bytes =>
    by_cases h : s.phase.isOpen = true
    · simp only [State.setHost_phase, h, if_true, State.absorb, foldl_appendByte_setHost]; rfl
    · simp only [State.setHost_phase, h]; rfl
  | finalize =>
    by_cases h : s.phase.isOpen = true
    · simp only [State.setHost_phase, h, if_true, State.closeSession, compressPadding_setHost]; rfl
    · simp only [State.setHost_phase, h]; rfl

end Sys2Proof.Machine
end

