-- ==== Sys2Proof/Laws/PerInstr.lean ====
section
/-! SUPPORT. The family Fields: the fields of an instruction's word (30_encoding.md R50 to R54), one lemma per constructor. -/

namespace Sys2Proof.Laws.Fields

/-- The word of an instruction has its opcode in OP, zero in RSV, and its byte count in NB (30_encoding.md R51 to R53). -/
def Statement (i : Instr) : Prop :=
  i.wellFormed = true →
    opField (encode i) = i.opcode ∧ rsvField (encode i) = 0 ∧ (nbField (encode i)).toNat = i.payload.length ∧
      dataField (encode i) = packLanes i.payload

theorem fields_of (op : BitVec 4) (n : BitVec 3) (d : Word) :
    opField (op ++ (0 : BitVec 25) ++ n ++ d) = op ∧ rsvField (op ++ (0 : BitVec 25) ++ n ++ d) = 0 ∧
      nbField (op ++ (0 : BitVec 25) ++ n ++ d) = n ∧ dataField (op ++ (0 : BitVec 25) ++ n ++ d) = d := by
  refine ⟨?_, ?_, ?_, ?_⟩ <;> ext i hi <;>
    simp only [opField, rsvField, nbField, dataField, BitVec.getElem_extractLsb', BitVec.getLsbD_append]
  · simp [show ¬ (60 + i < 32) by omega, show ¬ (60 + i - 32 < 3) by omega, show ¬ (60 + i - 32 - 3 < 25) by omega,
      show 60 + i - 32 - 3 - 25 = i by omega, BitVec.getLsbD_eq_getElem hi]
  · simp [show ¬ (35 + i < 32) by omega, show ¬ (35 + i - 32 < 3) by omega, show 35 + i - 32 - 3 < 25 by omega]
  · simp [show ¬ (32 + i < 32) by omega, hi]
  · simp [hi]

theorem nop : Statement .nop := fun _ => by
  obtain ⟨h1, h2, h3, h4⟩ := fields_of 0 (BitVec.ofNat 3 0) (packLanes [])
  exact ⟨h1, h2, by rw [show nbField (encode .nop) = _ from h3]; rfl, h4⟩

theorem init : Statement .init := fun _ => by
  obtain ⟨h1, h2, h3, h4⟩ := fields_of 1 (BitVec.ofNat 3 0) (packLanes [])
  exact ⟨h1, h2, by rw [show nbField (encode .init) = _ from h3]; rfl, h4⟩

theorem update (bytes : List Byte) : Statement (.update bytes) := fun hwf => by
  have hl : bytes.length ≤ 4 := by simpa [Instr.wellFormed] using hwf
  obtain ⟨h1, h2, h3, h4⟩ := fields_of 2 (BitVec.ofNat 3 bytes.length) (packLanes bytes)
  exact ⟨h1, h2, by rw [show nbField (encode (.update bytes)) = _ from h3]; simp [Instr.payload]; omega, h4⟩

theorem finalize : Statement .finalize := fun _ => by
  obtain ⟨h1, h2, h3, h4⟩ := fields_of 3 (BitVec.ofNat 3 0) (packLanes [])
  exact ⟨h1, h2, by rw [show nbField (encode .finalize) = _ from h3]; rfl, h4⟩

end Sys2Proof.Laws.Fields
end

