-- ==== Sys2Proof/Laws/Step.lean ====
section
/-! SUPPORT. What a word and a step can do, said once. -/

namespace Sys2Proof.Machine

/-- A word that decodes to a command is that command. -/
theorem execWord_of_ok {w : Word64} {i : Instr} (hw : decode w = .ok i) (s : State) : execWord w s = exec i s := by
  simp [execWord, hw]

/-- A word that is no command is error entry. -/
theorem execWord_of_error {w : Word64} {e : Illegal} (hw : decode w = .error e) (s : State) :
    execWord w s = .next (s.raiseError (causeOfIllegal e)) := by
  simp [execWord, hw]

/-- A word writes neither the port nor the model's own fields. -/
theorem execWord_port {w : Word64} {s t : State} (h : execWord w s = .next t) :
    t.port = s.port ∧ t.host = s.host ∧ t.freeIx = s.freeIx := by
  rcases hw : decode w with e | i
  · rw [execWord_of_error hw] at h; cases h; simp
  · rw [execWord_of_ok hw, exec_eq] at h
    cases h
    cases i
    · simp
    · simp
    · dsimp only; split
      · rw [absorb_frame]; simp
      · simp
    · dsimp only; split
      · rw [closeSession_eq]; simp
      · simp

/-- No word reads what the host does next. -/
theorem execWord_setHost (w : Word64) (s : State) (hs : List HostInput) :
    execWord w (s.setHost hs) = onNext (fun t => t.setHost hs) (execWord w s) := by
  unfold execWord
  split
  · exact exec_setHost _ _ _
  · rfl

/-- Every word answers a next state. -/
theorem execWord_total (w : Word64) (s : State) : ∃ t, execWord w s = .next t := by
  rcases h : decode w with e | i
  · exact ⟨_, execWord_of_error h s⟩
  · exact ⟨_, by rw [execWord_of_ok h, exec_eq]⟩

/-- A word that completes leaves its own effect with the port ready. -/
theorem completeWord_next {w : Word64} {s t : State} (h : completeWord w s = .next t) :
    ∃ u, execWord w s = .next u ∧ t = u.release := by
  obtain ⟨u, hu⟩ := execWord_total w s
  rw [completeWord, hu] at h
  cases h
  exact ⟨u, hu, rfl⟩

/-- The complete execution of a word is its effect between acceptance and release. -/
theorem transact_eq (w : Word64) (s : State) :
    ∃ u, execWord w (s.accept w) = .next u ∧ transact w s = .next u.release := by
  obtain ⟨u, hu⟩ := execWord_total w (s.accept w)
  exact ⟨u, hu, by rw [transact, completeWord, hu]; rfl⟩

/-- What settling the port did. -/
theorem settle_cases {s t : State} (h : settle s = .next t) :
    (s.port = .ready ∧ t = s) ∨ (∃ w, s.port = .executing w ∧ completeWord w s = .next t) ∨
      (s.port = .inReset ∧ t = s.release) := by
  unfold settle at h
  split at h
  · next hp => cases h; exact .inl ⟨hp, rfl⟩
  · next w hp => exact .inr (.inl ⟨w, hp, h⟩)
  · next hp => cases h; exact .inr (.inr ⟨hp, rfl⟩)

/-- What a step that answers a next state did: it settled the port, began a reset, ran a word, or accepted one. -/
theorem step_cases {s t : State} (h : step s = .next t) :
    (settle s = .next t ∧ s.host.head? ≠ some .reset) ∨
    (∃ rest, s.host = .wait :: rest ∧ settle (s.setHost rest) = .next t) ∨
    (∃ rest, s.host = .reset :: rest ∧ t = (s.setHost rest).assertReset) ∨
    (∃ w rest, s.port = .ready ∧ s.host = .command w :: rest ∧ transact w (s.setHost rest) = .next t) ∨
    ∃ w rest, s.port = .ready ∧ s.host = .accept w :: rest ∧ t = (s.setHost rest).accept w := by
  have ready : s.cmdReady = true → s.port = .ready := by
    unfold State.cmdReady; cases s.port <;> simp
  unfold step hostStep at h
  split at h
  · next hh => exact .inl ⟨h, by simp [hh]⟩
  · next rest hh => exact .inr (.inl ⟨rest, hh, h⟩)
  · next rest hh => cases h; exact .inr (.inr (.inl ⟨rest, hh, rfl⟩))
  · next w rest hh =>
    split at h
    · next hr => exact .inr (.inr (.inr (.inl ⟨w, rest, ready hr, hh, h⟩)))
    · exact .inl ⟨h, by simp [hh]⟩
  · next w rest hh =>
    split at h
    · next hr => cases h; exact .inr (.inr (.inr (.inr ⟨w, rest, ready hr, hh, rfl⟩)))
    · exact .inl ⟨h, by simp [hh]⟩

end Sys2Proof.Machine
end

