-- ==== Sys2Proof/Laws/Stream.lean ====
section
/-! SUPPORT. The blocks of a message and their chain, stated once. -/

namespace Sys2Proof.Machine

theorem messageBlock_getElem (m : List Byte) (k j : Nat) (hj : j < 64) :
    (messageBlock m k)[j] = m.getD (64 * k + j) 0 := by
  simp [messageBlock]

theorem messageBlock_append (m x : List Byte) (k : Nat) (h : 64 * (k + 1) ≤ m.length) :
    messageBlock (m ++ x) k = messageBlock m k := by
  apply Vector.ext
  intro j hj
  rw [messageBlock_getElem, messageBlock_getElem, List.getD_append _ _ _ _ (by omega)]

theorem chain_succ (m : List Byte) (n : Nat) : chain m (n + 1) = compress (chain m n) (messageBlock m n) := by
  simp [chain, List.range_succ]

/-- Bytes after the blocks of a chain do not change it. -/
theorem chain_append (m x : List Byte) (n : Nat) (h : 64 * n ≤ m.length) : chain (m ++ x) n = chain m n := by
  induction n with
  | zero => simp [chain]
  | succ n ih => rw [chain_succ, chain_succ, ih (by omega), messageBlock_append _ _ _ (by omega)]

end Sys2Proof.Machine
end

