-- ==== Sys2Proof/Laws/Tables.lean ====
section
/-! SUPPORT. What the tables, the schedule, the rounds and the padding blocks hold, stated once. -/

namespace Sys2Proof.Machine

@[simp] theorem rowWords_length (row : BitVec 256) : (rowWords row).length = 8 := by simp [rowWords]

theorem roundConstants_length : roundConstants.length = 64 := by decide

@[simp] theorem blockWords_length (b : Block) : (blockWords b).length = 16 := by simp [blockWords]

@[simp] theorem extendSchedule_length (ws : List Word) (t : Nat) :
    (extendSchedule ws t).length = ws.length + 1 := by simp [extendSchedule]

/-- The schedule keeps the words it already has. -/
theorem extendSchedule_getD_of_lt (ws : List Word) (t k : Nat) (hk : k < ws.length) :
    (extendSchedule ws t).getD k 0 = ws.getD k 0 := by
  simp [extendSchedule, List.getD_eq_getElem?_getD, List.getElem?_append_left hk]

theorem foldl_extendSchedule_length (ts : List Nat) (ws : List Word) :
    (ts.foldl extendSchedule ws).length = ws.length + ts.length := by
  induction ts generalizing ws with
  | nil => simp
  | cons t ts ih => simp [ih]; omega

@[simp] theorem schedule_length (b : Block) : (schedule b).length = 64 := by
  simp [schedule, foldl_extendSchedule_length]

theorem foldl_extendSchedule_getD (ts : List Nat) (ws : List Word) (k : Nat) (hk : k < ws.length) :
    (ts.foldl extendSchedule ws).getD k 0 = ws.getD k 0 := by
  induction ts generalizing ws with
  | nil => rfl
  | cons t ts ih => rw [List.foldl_cons, ih _ (by simp; omega), extendSchedule_getD_of_lt _ _ _ hk]

/-- One round after the others. -/
theorem runRounds_concat (kws : List (Word × Word)) (kw : Word × Word) (v : Working) :
    runRounds (kws ++ [kw]) v = round (runRounds kws v) kw.1 kw.2 := by
  simp [runRounds, List.foldl_append]

/-- Big-endian assembly is concatenation, the first byte on top. -/
theorem be32_eq_append (a b c d : Byte) : be32 a b c d = a ++ b ++ c ++ d := by
  apply BitVec.eq_of_getLsbD_eq
  intro i hi
  simp only [be32, BitVec.getLsbD_or, BitVec.getLsbD_shiftLeft, BitVec.getLsbD_setWidth, BitVec.getLsbD_append]
  by_cases h1 : i < 8
  · simp [h1, show i < 16 by omega, show i < 24 by omega, hi]
  · have hd := BitVec.getLsbD_of_ge d i (by omega)
    by_cases h2 : i < 16
    · simp [h1, h2, show i < 24 by omega, show i - 8 < 8 by omega, hi, show i - 8 < 32 by omega, hd]
    · have hc := BitVec.getLsbD_of_ge c (i - 8) (by omega)
      by_cases h3 : i < 24
      · simp [h1, h2, h3, show ¬ i - 8 < 8 by omega, show i - 16 < 8 by omega, show i - 16 < 32 by omega,
          show i - 8 - 8 = i - 16 by omega, hi, hd, hc]
      · simp [h1, h2, h3, show ¬ i - 8 < 8 by omega, show ¬ i - 8 - 8 < 8 by omega, show i - 24 < 32 by omega,
          show i - 8 - 8 - 8 = i - 24 by omega, hi, hd, hc, BitVec.getLsbD_of_ge b (i - 16) (by omega)]

@[simp] theorem paddedBlock_getElem (buf : Vector Byte 64) (p j : Fin 64) :
    (paddedBlock buf p)[j] = if j < p then buf[j] else if j = p then 0x80 else 0 := by
  simp [paddedBlock]

@[simp] theorem withLength_getElem_of_lt (b : Block) (lb : Vector Byte 8) (j : Fin 64) (hj : j.val < 56) :
    (withLength b lb)[j] = b[j] := by
  simp [withLength, Nat.not_le.mpr hj]

theorem withLength_getElem_of_le (b : Block) (lb : Vector Byte 8) (j : Fin 64) (hj : 56 ≤ j.val) :
    (withLength b lb)[j] = lb[j.val - 56] := by
  simp [withLength, hj]

end Sys2Proof.Machine
end

