-- ==== Sys2Proof/Tests/Slice0.lean ====
section
/-! SUPPORT. Tests: expected values are the spec's (95_test_vectors.md and the rules' own examples), and for every statement
of Certificates/Slice0/Obligations.lean with hypotheses a witness that meets them together. -/

set_option maxRecDepth 20000

namespace Sys2Proof.Tests

open Sys2Proof.Machine

/-- The state an outcome carries (reset for a stop). -/
def stateOf (o : Host.Outcome State Fault Refusal) : State :=
  match o with
  | .next t => t
  | .fault _ => State.reset
  | .refused _ => State.reset

/-- A state in phase `p` with the given pending bytes (at most 63), LEN their number, and `H = IV`. -/
def sessionState (p : Phase) (bytes : List Byte) : State :=
  { State.reset with
    phase := p
    h := initialHash
    buf := Vector.ofFn fun j => bytes.getD j.val 0
    pend := Fin.ofNat 64 bytes.length
    len := BitVec.ofNat 64 bytes.length }

/-- The block whose first bytes are these, the rest zero. -/
def blockOf (bytes : List Byte) : Block := Vector.ofFn fun j => bytes.getD j.val 0

/-- The padded "abc" block of 41_message_scheduler.md R79. -/
def abcBlock : Block := withLength (blockOf [0x61, 0x62, 0x63, 0x80]) #v[0, 0, 0, 0, 0, 0, 0, 0x18]

/-! ### WellFormed smoke test: a term that the check refuses (30_encoding.md R53) -/

theorem test_update_of_five_bytes_is_ill_formed : (Instr.update [1, 2, 3, 4, 5]).wellFormed = false := by decide

theorem test_update_of_four_bytes_is_well_formed : (Instr.update [1, 2, 3, 4]).wellFormed = true := by decide

/-! ### Decoding: words written out bit by bit from 30_encoding.md R50, R54, R56 (OP, RSV, NB, DATA) -/

theorem test_decode_nop_word :
    decode 0b0000_0000000000000000000000000_000_00000000000000000000000000000000 = .ok .nop := by decide

theorem test_decode_init_word :
    decode 0b0001_0000000000000000000000000_000_11111111000000001111111100000000 = .ok .init := by decide

theorem test_decode_update_word :
    decode 0b0010_0000000000000000000000000_011_01100001_01100010_01100011_11111111 =
      .ok (.update [0x61, 0x62, 0x63]) := by decide

theorem test_decode_update_full_beat :
    decode 0b0010_0000000000000000000000000_100_00000001_00000010_00000011_00000100 = .ok (.update [1, 2, 3, 4]) := by
  decide

theorem test_decode_finalize_word :
    decode 0b0011_0000000000000000000000000_000_00000000000000000000000000000001 = .ok .finalize := by decide

/-- 60_exceptions.md R117: RSV bit 59 set and `NB = 5` is reported as reserved bits. -/
theorem test_decode_priority : decode 0x2800000500000000 = .error .reservedBits := by decide

/-- 95_test_vectors.md section 2.6: OP = 5 with RSV set is an illegal opcode. -/
theorem test_decode_opcode_first : decode 0x5800000000000000 = .error .illegalOpcode := by decide

theorem test_decode_bad_length : decode 0x2000000700000000 = .error .badLength := by decide

/-- 30_encoding.md R61. -/
theorem test_encode_update : encode (.update [0xb0]) = 0x20000001b0000000 := by decide

theorem test_encode_finalize : encode .finalize = 0x3000000000000000 := by decide

theorem test_decodeTableWord_update : decodeTableWord 64 0x2000000264650000 = some (.update [0x64, 0x65]) := by decide

theorem test_decodeTableWord_reserved : decodeTableWord 64 0x4000000000000000 = none := by decide

/-! ### Word functions, schedule, compression: 95_test_vectors.md sections 2.1 to 2.3 -/

theorem test_word_functions_row : rotr 7 0x12345678 = 0xf02468ac ∧ shr 3 0x12345678 = 0x02468acf ∧
    smallSigma0 0x12345678 = 0xe7fce6ee ∧ smallSigma1 0x12345678 = 0xa1f78649 ∧
    bigSigma0 0x12345678 = 0x66146474 ∧ bigSigma1 0x12345678 = 0x3561abda := by decide

theorem test_ch_maj_row : ch 0xf0f0f0f0 0xff00ff00 0x0ff00ff0 = 0xff00ff00 ∧
    maj 0xf0f0f0f0 0xff00ff00 0x0ff00ff0 = 0xfff0fff0 := by decide

/-- V-SCH-1: W[0], W[17], W[20] and W[63]. -/
theorem test_schedule_abc : (schedule abcBlock).getD 0 0 = 0x61626380 ∧ (schedule abcBlock).getD 17 0 = 0x000f0000 ∧
    (schedule abcBlock).getD 20 0 = 0x3e9d7b78 ∧ (schedule abcBlock).getD 63 0 = 0x12b1edeb := by decide

/-- V-RND-1, round 0. -/
theorem test_round_abc : round (loadWorking initialHash) 0x428a2f98 0x61626380 =
    ⟨0x5d6aebcd, 0x6a09e667, 0xbb67ae85, 0x3c6ef372, 0xfa2a4622, 0x510e527f, 0x9b05688c, 0x1f83d9ab⟩ := by decide

/-- V-CMP-1. -/
theorem test_compress_abc : compress initialHash abcBlock =
    #v[0xba7816bf, 0x8f01cfea, 0x414140de, 0x5dae2223, 0xb00361a3, 0x96177a9c, 0xb410ff61, 0xf20015ad] := by decide

/-- V-CMP-3. -/
theorem test_compress_zero : compress (Vector.replicate 8 0) (Vector.replicate 64 0) =
    #v[0x7ca51614, 0x425c3ba8, 0xce54dd2f, 0xc2020ae7, 0xb6e574d1, 0x98136d0f, 0xae7e26cc, 0xbf0be7a6] := by decide

/-- 44_finalizer.md R106: LEN = 56. -/
theorem test_length_field : lengthField 56 = #v[0, 0, 0, 0, 0, 0, 0x01, 0xc0] := by decide

/-! ### The commands: 95_test_vectors.md sections 2.4 to 2.6 -/

/-- V-ACC-7. -/
theorem test_nop_in_accum : (stateOf (execNop (sessionState .accum [1, 2, 3]))).status = 0x00030002 := by decide

/-- V-ACC-1. -/
theorem test_init_after_reset :
    (stateOf (execInit State.reset)).status = 0x00000001 ∧ (stateOf (execInit State.reset)).h = initialHash := by decide

/-- The ERROR column of section 2.6: INIT leaves CAUSE = 4. -/
theorem test_init_keeps_cause :
    (stateOf (execInit (State.reset.raiseError .illegalOpcode))).status = 0x00000421 := by decide

/-- V-ACC-2. -/
theorem test_update_abc :
    (stateOf (execUpdate [0x61, 0x62, 0x63] (sessionState .fresh []))).status = 0x00030002 ∧
    (stateOf (execUpdate [0x61, 0x62, 0x63] (sessionState .fresh []))).pendingBytes = [0x61, 0x62, 0x63] := by decide

/-- V-ACC-5: PEND = 62 and `UPDATE "bcde"`. -/
theorem test_update_across_block :
    (stateOf (execUpdate [0x62, 0x63, 0x64, 0x65] (sessionState .accum (List.replicate 62 0x61)))).pendingBytes =
      [0x64, 0x65] ∧
    (stateOf (execUpdate [0x62, 0x63, 0x64, 0x65] (sessionState .accum (List.replicate 62 0x61)))).len = 66 := by decide

/-- V-PRG-2. -/
theorem test_finalize_abc :
    (stateOf (execFinalize (sessionState .accum [0x61, 0x62, 0x63]))).status = 0x0000000B ∧
    (stateOf (execFinalize (sessionState .accum [0x61, 0x62, 0x63]))).digest =
      #v[0xba7816bf, 0x8f01cfea, 0x414140de, 0x5dae2223, 0xb00361a3, 0x96177a9c, 0xb410ff61, 0xf20015ad] := by decide

/-- V-DOC-2, the words and the text. -/
theorem test_digest_hex :
    ({ State.reset with
      digest := #v[0xba7816bf, 0x8f01cfea, 0x414140de, 0x5dae2223, 0xb00361a3, 0x96177a9c, 0xb410ff61, 0xf20015ad] } :
        State).digestHex =
      "ba7816bf8f01cfea414140de5dae2223b00361a396177a9cb410ff61f20015ad".toList := by decide

/-- V-DOC-4: 56 bytes of `a`, the smallest two-block case. -/
theorem test_finalize_two_blocks :
    (stateOf (execFinalize (sessionState .accum (List.replicate 56 0x61)))).digest =
      #v[0xb35439a4, 0xac6f0948, 0xb6d6f9e3, 0xc6af0f5f, 0x590ce20f, 0x1bde7090, 0xef797068, 0x6ec6738a] := by decide

/-- V-PRG-7, the first word: UPDATE in IDLE. -/
theorem test_update_without_session : (stateOf (transact 0x2000000161000000 State.reset)).status = 0x00000314 := by decide

/-- Section 2.6: OP = F in ACCUM; PEND and LEN keep their values. -/
theorem test_illegal_word_in_accum :
    (stateOf (transact 0xF000000000000000 (sessionState .accum [0x61, 0x62, 0x63]))).status = 0x00030424 := by decide

/-! ### The step: the first command after reset, and the port -/

/-- `withFetchWord` gives the next step that word. -/
theorem test_first_step_runs_init :
    (stateOf (step (State.reset.withFetchWord 64 0x1000000000000000))).phase = .fresh ∧
    (stateOf (step (State.reset.withFetchWord 64 0x1000000000000000))).busy = false := by decide

/-- 10_state.md R33: BUSY is STATUS bit 31 after acceptance, and nothing else has changed. -/
theorem test_accepted_word_is_busy :
    (stateOf (step { State.reset with host := [.accept 0x1000000000000000] })).status = 0x80000000 := by decide

/-- 60_exceptions.md R117 example: an illegal word in FINAL is reported as illegal. -/
theorem test_illegal_before_misuse :
    (stateOf (transact 0x2800000500000000 (sessionState .final []))).cause.code = 5 := by decide

/-- 30_encoding.md R61: an assembler refuses five bytes. -/
theorem test_assembler_refuses_five_bytes : assemble (.update [1, 2, 3, 4, 5]) = none := by decide

/-- 30_encoding.md R62: seven bytes are a full beat and a beat of three. -/
theorem test_update_chunk_of_seven : updateChunk [1, 2, 3, 4, 5, 6, 7] = [.update [1, 2, 3, 4], .update [5, 6, 7]] := by
  decide

/-! ### Witnesses: for every statement with hypotheses, a case that meets them together -/

theorem witness_DecodeOfEncode : (Instr.update [0xFF, 0, 1, 2]).wellFormed = true := by decide

/-- Words that differ in the ignored lanes 1 to 3 only. -/
theorem witness_IgnoredBitsDoNotMatter :
    (∀ i : Nat, 32 ≤ i → (0x2000000164FFFFFF : Word64).getLsbD i = (0x2000000164000000 : Word64).getLsbD i) ∧
    (0x2000000164FFFFFF : Word64).toNat / 2 ^ 60 = 2 ∧
    (∀ i : Nat, 32 ≤ i + 8 * ((0x2000000164FFFFFF : Word64).toNat / 2 ^ 32 % 8) → i < 32 →
      (0x2000000164FFFFFF : Word64).getLsbD i = (0x2000000164000000 : Word64).getLsbD i) ∧
    (0x2000000164FFFFFF : Word64) ≠ 0x2000000164000000 := by
  refine ⟨fun i hi => ?_, by decide, ?_, by decide⟩
  · have shifted : (0x2000000164FFFFFF : Word64) >>> 32 = (0x2000000164000000 : Word64) >>> 32 := by decide
    have := congrArg (·.getLsbD (i - 32)) shifted
    simpa only [BitVec.getLsbD_ushiftRight, show 32 + (i - 32) = i by omega] using this
  · have lane0 : ∀ i : Fin 32, 24 ≤ i.val →
        (0x2000000164FFFFFF : Word64).getLsbD i.val = (0x2000000164000000 : Word64).getLsbD i.val := by decide
    intro i h1 h2
    exact lane0 ⟨i, h2⟩ (by simpa using h1)

theorem witness_RotateRightMovesBits : 0 < 31 ∧ 31 < 32 ∧ 0 < 1 ∧ 1 < 32 := by decide

/-- The primes of the statement are those of R73 and R74: 64 of them, from 2 to 311, the eighth 19. -/
theorem witness_ConstantsAreRootsOfPrimes :
    ∃ primes : List Nat,
      primes = (List.range 312).filter (fun n => 2 ≤ n && (List.range n).all fun d => d < 2 || n % d != 0) ∧
      primes.length = 64 ∧ primes.getD 0 0 = 2 ∧ primes.getD 7 0 = 19 ∧ primes.getD 63 0 = 311 :=
  ⟨_, rfl, by decide +kernel⟩

theorem witness_ChoiceAndMajorityByBit : 31 < 32 := by decide

theorem witness_ScheduleFollowsRecurrence : 16 ≤ 16 ∧ 16 < 64 ∧ 16 ≤ 63 ∧ 63 < 64 := by decide

theorem witness_CompressRunsSixtyFourRounds : 63 < 64 := by decide

theorem witness_NopHasNoEffect :
    State.reset.port = .ready ∧ (0x00000000FFFFFFFF : Word64) &&& 0xFFFFFFFF00000000 = 0x0000000000000000 ∧
    (0x0000000800000000 : Word64).toNat / 2 ^ 60 = 0 ∧
    (0x0000000800000000 : Word64) &&& 0xFFFFFFFF00000000 ≠ 0x0000000000000000 := by decide

theorem witness_InitOpensFreshSession :
    stateOf (exec .init State.reset) = { State.reset with
      h := #v[0x6a09e667, 0xbb67ae85, 0x3c6ef372, 0xa54ff53a, 0x510e527f, 0x9b05688c, 0x1f83d9ab, 0x5be0cd19]
      pend := 0, len := 0, dv := false, phase := .fresh } ∧
    State.reset.port = .ready ∧ (0x1000000000000001 : Word64) &&& 0xFFFFFFFF00000000 = 0x1000000000000000 := by decide

/-- The last position before the block is full: `PEND + NB = 63`. -/
theorem witness_UpdateBuffersBeat :
    [(1 : Byte), 2, 3, 4].length ≤ 4 ∧ (sessionState .accum (List.replicate 59 0)).phase = .accum ∧
    (sessionState .accum (List.replicate 59 0)).pend.val + [(1 : Byte), 2, 3, 4].length = 63 := by decide

/-- The block filled exactly: `PEND + NB = 64`. -/
theorem witness_UpdateCompressesFullBlock_exact :
    [(1 : Byte), 2, 3, 4].length ≤ 4 ∧ (sessionState .fresh (List.replicate 60 7)).phase = .fresh ∧
    (sessionState .fresh (List.replicate 60 7)).pend.val + [(1 : Byte), 2, 3, 4].length = 64 ∧
    ∀ j : Fin 64, (blockOf (List.replicate 60 7 ++ [1, 2, 3, 4]))[j] =
      if j.val < (sessionState .fresh (List.replicate 60 7)).pend.val then (sessionState .fresh (List.replicate 60 7)).buf[j]
      else [(1 : Byte), 2, 3, 4].getD (j.val - (sessionState .fresh (List.replicate 60 7)).pend.val) 0 := by decide

/-- The largest remainder: `PEND + NB = 67`. -/
theorem witness_UpdateCompressesFullBlock_most :
    [(1 : Byte), 2, 3, 4].length ≤ 4 ∧ (sessionState .accum (List.replicate 63 7)).phase = .accum ∧
    (sessionState .accum (List.replicate 63 7)).pend.val + [(1 : Byte), 2, 3, 4].length = 67 ∧
    ∀ j : Fin 64, (blockOf (List.replicate 63 7 ++ [1]))[j] =
      if j.val < (sessionState .accum (List.replicate 63 7)).pend.val then (sessionState .accum (List.replicate 63 7)).buf[j]
      else [(1 : Byte), 2, 3, 4].getD (j.val - (sessionState .accum (List.replicate 63 7)).pend.val) 0 := by decide

theorem witness_UpdateOfNoByte : (sessionState .fresh []).phase = .fresh ∧ (sessionState .accum []).phase = .accum ∧
    (sessionState .final []).phase = .final ∧ State.reset.phase = .idle ∧ (sessionState .error []).phase = .error := by
  decide

/-- The largest single-block case: `PEND = 55`, and the bytes of the block. -/
theorem witness_FinalizeWithOneBlock :
    (sessionState .accum (List.replicate 55 0x61)).phase = .accum ∧
    (sessionState .accum (List.replicate 55 0x61)).pend.val = 55 ∧
    ∀ j : Fin 64, (withLength (blockOf (List.replicate 55 0x61 ++ [0x80])) #v[0, 0, 0, 0, 0, 0, 0x01, 0xb8])[j] =
      if j < (sessionState .accum (List.replicate 55 0x61)).pend then (sessionState .accum (List.replicate 55 0x61)).buf[j]
      else if j = (sessionState .accum (List.replicate 55 0x61)).pend then 0x80 else if j.val < 56 then 0
      else BitVec.ofNat 8
        ((sessionState .accum (List.replicate 55 0x61)).len.toNat * 8 % 2 ^ 64 / 2 ^ (504 - 8 * j.val)) := by decide

/-- The smallest two-block case: `PEND = 56`, and the bytes of both blocks. -/
theorem witness_FinalizeWithTwoBlocks :
    (sessionState .accum (List.replicate 56 0x61)).phase = .accum ∧
    (sessionState .accum (List.replicate 56 0x61)).pend.val = 56 ∧
    (∀ j : Fin 64, (blockOf (List.replicate 56 0x61 ++ [0x80]))[j] =
      if j < (sessionState .accum (List.replicate 56 0x61)).pend then (sessionState .accum (List.replicate 56 0x61)).buf[j]
      else if j = (sessionState .accum (List.replicate 56 0x61)).pend then 0x80 else 0) ∧
    ∀ j : Fin 64, (withLength (blockOf []) #v[0, 0, 0, 0, 0, 0, 0x01, 0xc0])[j] =
      if j.val < 56 then 0
      else BitVec.ofNat 8
        ((sessionState .accum (List.replicate 56 0x61)).len.toNat * 8 % 2 ^ 64 / 2 ^ (504 - 8 * j.val)) := by decide

theorem witness_EmptyStreamDigest : (sessionState .fresh []).phase = .fresh ∧ (sessionState .fresh []).h = initialHash ∧
    (sessionState .fresh []).pend = 0 ∧ (sessionState .fresh []).len = 0 ∧
    ∀ j : Fin 64, ((Vector.replicate 64 (0 : Byte)).set 0 0x80)[j] = if j.val = 0 then 0x80 else 0 := by decide

theorem witness_MisuseEntersError : (sessionState .final []).phase = .final ∧ Cause.updateAfterFinalize.code = 1 ∧
    Cause.finalizeTwice.code = 2 ∧ State.reset.phase = .idle ∧ (sessionState .error []).phase = .error ∧
    Cause.noSession.code = 3 := by decide

theorem witness_IllegalWordEntersError : State.reset.port = .ready ∧
    (decode 0xF000000000000000 = .error .illegalOpcode ∧ Cause.illegalOpcode.code = 4) ∧
    (decode 0x1000000100000000 = .error .reservedBits ∧ Cause.reservedBits.code = 5) ∧
    (decode 0x2000000500000000 = .error .badLength ∧ Cause.badLength.code = 6) := by decide

/-- A state with both error bits and a cause, and a word that raises another error. -/
def erredState : State :=
  { (State.reset.raiseError .illegalOpcode).raiseError .noSession with host := [.command 0x2000000500000000] }

theorem witness_ErrorsAreStickyUntilReset : erredState.host.head? ≠ some .reset ∧
    step erredState = .next (stateOf (step erredState)) ∧ erredState.errMisuse = true ∧ erredState.errIllegal = true ∧
    erredState.cause ≠ .none :=
  ⟨by decide, rfl, by decide, by decide, by decide⟩

theorem witness_OnlyInitLeavesError : erredState.port = .ready ∧ erredState.phase = .error ∧
    decode 0x0000000000000000 = .ok .nop := by decide

theorem witness_PhaseFollowsTransitionTable : State.reset.port = .ready := by decide

theorem witness_StepRunsDecodedCommand :
    ({ State.reset with host := [.command 0x2000000361626300, .wait] } : State).port = .ready ∧
    ({ State.reset with host := [.command 0x2000000361626300, .wait] } : State).host =
      .command 0x2000000361626300 :: [.wait] ∧
    decode 0x2000000361626300 = .ok (.update [0x61, 0x62, 0x63]) := by decide

/-- An accepted word before each thing the host can do next but a reset. -/
theorem witness_AcceptedWordCommitsAtCompletion :
    ∀ next ∈ [[], [.wait], [.accept 0x3000000000000000, .wait], [HostInput.command 0x3000000000000000, .wait]],
      ({ State.reset with host := .accept 0x1000000000000000 :: next } : State).port = .ready ∧
      ({ State.reset with host := .accept 0x1000000000000000 :: next } : State).host =
        .accept 0x1000000000000000 :: next ∧ next.head? ≠ some .reset ∧ (1 : BitVec 4) ≠ 0 := by decide

theorem witness_HeldWordIsTakenOnce :
    ({ State.reset with port := .executing 0, host := [.command 0x1000000000000000] } : State).port = .executing 0 ∧
    ({ State.reset with port := .executing 0, host := [.command 0x1000000000000000] } : State).host =
      .command 0x1000000000000000 :: [] := by decide

/-- Reset during a command. -/
theorem witness_ResetAbandonsEverything :
    ({ sessionState .accum [1] with port := .executing 0x3000000000000000, host := [.reset, .wait] } : State).host =
      .reset :: [.wait] := by decide

theorem witness_IdleCyclesChangeNothing : State.reset.port = .ready ∧ State.reset.host = [] ∧
    ({ State.reset with host := [.wait] } : State).host = .wait :: [] := by decide

theorem witness_ReadPortMap : State.reset.port ≠ .inReset ∧ 3 ≤ (3 : BitVec 4).toNat ∧ (3 : BitVec 4).toNat ≤ 7 ∧
    3 ≤ (7 : BitVec 4).toNat ∧ (7 : BitVec 4).toNat ≤ 7 := by decide

theorem witness_WhoWritesWhat : exec .finalize (sessionState .fresh []) = .next (sessionState .fresh []).closeSession := rfl

/-- Two states whose buffers differ at the stale byte 3. -/
theorem witness_StaleBytesAreNeverRead :
    (sessionState .accum [1, 2, 3]).sameButStale ((sessionState .accum [1, 2, 3]).bufWrite 3 9) ∧
    sessionState .accum [1, 2, 3] ≠ (sessionState .accum [1, 2, 3]).bufWrite 3 9 :=
  ⟨⟨rfl, by decide, rfl⟩, by decide⟩

/-- A state with the invariant, other than reset, in which a step does something. -/
theorem witness_EveryStepKeepsInvariant :
    ({ sessionState .accum [1, 2, 3] with host := [.command 0x2000000104000000] } : State).Inv ∧
    step { sessionState .accum [1, 2, 3] with host := [.command 0x2000000104000000] } =
      .next (stateOf (step { sessionState .accum [1, 2, 3] with host := [.command 0x2000000104000000] })) :=
  ⟨by constructor <;> decide, rfl⟩

theorem witness_DigestValidTransitions : (sessionState .accum [1, 2, 3]).Inv ∧ (sessionState .accum [1, 2, 3]).port = .ready ∧
    transact 0x3000000000000000 (sessionState .accum [1, 2, 3]) =
      .next (stateOf (transact 0x3000000000000000 (sessionState .accum [1, 2, 3]))) :=
  ⟨by constructor <;> decide, rfl, rfl⟩

/-- "abc" as `a`, nothing, `bc` (V-DOC-5) and in one beat. -/
theorem witness_ChunkBoundariesDoNotMatter : (sessionState .fresh []).phase.isOpen = true ∧
    (∀ b ∈ [[(0x61 : Byte)], [], [0x62, 0x63]] ++ [[0x61, 0x62, 0x63]], b.length ≤ 4) ∧
    [[(0x61 : Byte)], [], [0x62, 0x63]].flatten = [[(0x61 : Byte), 0x62, 0x63]].flatten ∧
    [[(0x61 : Byte)], [], [0x62, 0x63]] ≠ [] ∧ [[(0x61 : Byte), 0x62, 0x63]] ≠ [] := by decide

theorem witness_UpdateChunkExpansion : [(1 : Byte), 2, 3, 4, 5] ≠ [] := by decide

theorem witness_HashCommandsGiveDigest : [(0x61 : Byte), 0x62, 0x63].length < 2 ^ 61 := by decide

theorem witness_PaddedMessageShape : [(1 : Byte)].length < 2 ∧ 2 + 8 < (padMessage [1]).length ∧ 7 < 8 := by decide

/-- An open session of three bytes, held by the core. -/
theorem witness_CoreHoldsTheSession : (sessionState .accum [1, 2, 3]).port = .ready ∧
    (sessionState .accum [1, 2, 3]).Holds ⟨.accum, [1, 2, 3]⟩ := by
  refine ⟨rfl, ?_⟩
  constructor <;> decide

theorem witness_StepsRunWordsInOrder : State.reset.port = .ready ∧
    ({ State.reset with host := [.command 0x1000000000000000, .wait] } : State).host =
      [(0x1000000000000000 : Word64)].map .command ++ [.wait] := by decide

/-- V-PRG-1: the run `INIT; FINALIZE` from reset produces a digest. -/
theorem witness_RunDigestIsOfDeliveredStream :
    (stateOf (runWords [0x1000000000000000, 0x3000000000000000] State.reset)).producesDigest = true ∧
    (sessionOf [0x1000000000000000, 0x3000000000000000]).msg.length < 2 ^ 61 := by decide

theorem witness_AssemblerLines : 4 < [(1 : Nat), 2, 3, 4, 5].length ∧ ∃ b ∈ [(256 : Nat)], 255 < b := by decide

theorem witness_CoresAreIndependent :
    [State.reset, sessionState .accum [1]][1]? = some (sessionState .accum [1]) ∧
    step (sessionState .accum [1]) = .next (sessionState .accum [1]) ∧ (0 : Nat) ≠ 1 :=
  ⟨rfl, rfl, by decide⟩

end Sys2Proof.Tests
end

namespace Sys2Proof.Machine

/-! ### The bytes of the length field -/

theorem be64bytes_getElem_toNat (v : Word64) (i : Nat) (hi : i < 8) :
    (be64bytes v)[i].toNat = v.toNat / 2 ^ (56 - 8 * i) % 256 := by
  simp [be64bytes, Nat.shiftRight_eq_div_pow]

/-- Reading the eight bytes back, most significant first, gives the number they were cut from (00_scope.md R10). -/
theorem foldl_be64bytes (v : Word64) :
    (List.range 8).foldl (fun n i => n * 256 + ((be64bytes v).toList.getD i 0).toNat) 0 = v.toNat := by
  have byte : ∀ i < 8, ((be64bytes v).toList.getD i 0).toNat = v.toNat / 2 ^ (56 - 8 * i) % 256 := fun i hi => by
    rw [← be64bytes_getElem_toNat v i hi]; simp [List.getD_eq_getElem?_getD, hi]
  have := v.isLt
  simp only [List.range, List.range.loop, List.foldl, byte 0 (by omega), byte 1 (by omega), byte 2 (by omega),
    byte 3 (by omega), byte 4 (by omega), byte 5 (by omega), byte 6 (by omega), byte 7 (by omega)]
  omega

/-- Settles O21: both clauses are facts about `be64bytes` at the product `LEN * 8`. -/
theorem lengthFieldIsBigEndianBitCount : Obligations.LengthFieldIsBigEndianBitCount := by
  unfold Obligations.LengthFieldIsBigEndianBitCount
  intro len
  have bits : (len * 8).toNat = len.toNat * 8 % 2 ^ 64 := BitVec.toNat_mul len 8
  refine ⟨fun i => ?_, ?_⟩
  · rw [← bits]; exact be64bytes_getElem_toNat _ _ i.isLt
  · rw [lengthField, foldl_be64bytes, bits]; omega

end Sys2Proof.Machine

namespace Sys2Proof.Machine

/-! ### A command word at a ready port -/

/-- The step of a core whose host presents a word at a ready port is the execution of that word (00_scope.md R12). -/
theorem step_of_command {s : State} {w : Word64} {rest : List HostInput} (hp : s.port = .ready)
    (hh : s.host = .command w :: rest) : step s = transact w (s.setHost rest) := by
  simp [step, hostStep, hh, State.cmdReady, hp]

theorem transact_of_ok {w : Word64} {i : Instr} (hw : decode w = .ok i) (s : State) :
    transact w s = onNext State.release (exec i (s.accept w)) := by
  rw [transact, completeWord, execWord_of_ok hw]

/-- Settles O28: the host's word is transacted, and a word that decodes is its instruction. -/
theorem stepRunsDecodedCommand : Obligations.StepRunsDecodedCommand := by
  unfold Obligations.StepRunsDecodedCommand
  intro s w i rest hp hh hw
  rw [step_of_command hp hh, transact_of_ok hw]
  rfl

end Sys2Proof.Machine

namespace Sys2Proof.Machine

/-! ### Blocks of a byte sequence -/

/-- A block whose bytes stand in `m` from `64 * k` on is block `k` of `m`. -/
theorem eq_messageBlock_of_drop {b : Block} {m rest : List Byte} {k : Nat} (h : m.drop (64 * k) = b.toList ++ rest) :
    b = messageBlock m k := by
  apply Vector.ext
  intro j hj
  rw [messageBlock_getElem _ _ _ hj, List.getD_eq_getElem?_getD, ← List.getElem?_drop, h,
    List.getElem?_append_left (by simpa using hj)]
  simp [hj]

/-- A chain goes on with the next 64 bytes (42_compression.md R91). -/
theorem chain_succ_of_drop {b : Block} {m rest : List Byte} {n : Nat} (h : m.drop (64 * n) = b.toList ++ rest) :
    chain m (n + 1) = compress (chain m n) b := by
  rw [chain_succ, eq_messageBlock_of_drop h]

/-- After a block that stands at `64 * n`, the bytes from `64 * (n + 1)` on. -/
theorem drop_next_block {b : Block} {m rest : List Byte} {n : Nat} (h : m.drop (64 * n) = b.toList ++ rest) :
    m.drop (64 * (n + 1)) = rest := by
  rw [Nat.mul_succ, ← List.drop_drop, h, List.drop_left' (by simp)]

/-! ### The stream held by H, PEND and BUF -/

/-- H, PEND and BUF hold the byte sequence: its full blocks chained, the rest pending. This is what `State.Holds` says of
an open session, but for LEN and PHASE, which UPDATE writes after its last byte. -/
structure State.HoldsBytes (s : State) (m : List Byte) : Prop where
  chained : s.h = chain m (m.length / 64)
  pendCount : s.pend.val = m.length % 64
  pending : s.buf.toList.take s.pend.val = m.drop (64 * (m.length / 64))

/-- An open session is held as its phase, its bytes and their number. -/
theorem holds_open_iff {s : State} {p : Phase} {m : List Byte} (hp : p.isOpen = true) :
    s.Holds ⟨p, m⟩ ↔ s.phase = p ∧ s.HoldsBytes m ∧ s.len = BitVec.ofNat 64 m.length := by
  constructor
  · intro h
    exact ⟨h.phase, ⟨h.chained hp, h.pendCount hp, h.pending hp⟩, h.count (.inl hp)⟩
  · rintro ⟨hphase, hbytes, hlen⟩
    exact ⟨hphase, fun _ => hbytes.chained, fun _ => hbytes.pendCount, fun _ => hbytes.pending, fun _ => hlen,
      fun hf => by rw [show p = .final from hf] at hp; cases hp⟩

/-- Where no session is open and none has been closed, only the phase is held. -/
theorem holds_of_phase {s : State} {p : Phase} {m : List Byte} (hs : s.phase = p) (ho : p.isOpen = false)
    (hf : p ≠ .final) : s.Holds ⟨p, m⟩ := by
  have closed : ¬ p.isOpen = true := by simp [ho]
  exact ⟨hs, fun h => absurd h closed, fun h => absurd h closed, fun h => absurd h closed,
    fun h => h.elim (absurd · closed) (absurd · hf), (absurd · hf)⟩

theorem openSession_holds (s : State) : s.openSession.Holds ⟨.fresh, []⟩ :=
  (holds_open_iff rfl).2 ⟨rfl, ⟨rfl, rfl, rfl⟩, rfl⟩

/-- Writing the byte after the pending ones makes it one more pending byte. -/
theorem take_set_pend (buf : Vector Byte 64) (p : Fin 64) (b : Byte) :
    (buf.set p.val b p.isLt).toList.take (p.val + 1) = buf.toList.take p.val ++ [b] := by
  rw [Vector.toList_set, List.take_add_one, List.take_set_of_le (Nat.le_refl _), List.getElem?_set_self (by simp)]
  rfl

/-- One byte of a beat: it stays pending, or it completes the next block of the chain (43_accumulator.md R94, R95). -/
theorem State.HoldsBytes.appendByte {s : State} {m : List Byte} (h : s.HoldsBytes m) (b : Byte) :
    (s.appendByte b).HoldsBytes (m ++ [b]) := by
  obtain ⟨hchain, hpend, hbuf⟩ := h
  have hlen : (m ++ [b]).length = m.length + 1 := by simp
  have written : (s.bufWrite s.pend b).buf.toList.take (s.pend.val + 1) = (m ++ [b]).drop (64 * (m.length / 64)) := by
    rw [State.bufWrite_buf, take_set_pend, hbuf, List.drop_append_of_le_length (by omega)]
  rcases appendByte_cases s b with ⟨hlt, heq⟩ | ⟨hfull, heq⟩ <;> rw [heq]
  · have hblocks : (m ++ [b]).length / 64 = m.length / 64 := by omega
    have hsucc : (s.pend + 1).val = s.pend.val + 1 := by rw [Fin.val_add_one_of_lt']; omega
    refine ⟨?_, ?_, ?_⟩
    · rw [hblocks, chain_append _ _ _ (by omega)]; exact hchain
    · rw [State.setPend_pend, hsucc]; omega
    · rw [hblocks, State.setPend_pend, hsucc]; exact written
  · have hblocks : (m ++ [b]).length / 64 = m.length / 64 + 1 := by omega
    have hblock : (m ++ [b]).drop (64 * (m.length / 64)) = (s.bufWrite s.pend b).buf.toList ++ [] := by
      rw [← written, hfull, List.take_of_length_le (by simp), List.append_nil]
    refine ⟨?_, ?_, ?_⟩
    · rw [hblocks, chain_succ_of_drop hblock, chain_append _ _ _ (by omega), ← hchain]; rfl
    · rw [State.setPend_pend, Fin.val_zero]; omega
    · rw [hblocks, drop_next_block hblock]; rfl

theorem State.HoldsBytes.foldl_appendByte {s : State} {m : List Byte} (h : s.HoldsBytes m) (bytes : List Byte) :
    (bytes.foldl State.appendByte s).HoldsBytes (m ++ bytes) := by
  induction bytes generalizing s m with
  | nil => simpa using h
  | cons b bytes ih => simpa using ih (h.appendByte b)

/-- A legal UPDATE adds its bytes to the session (43_accumulator.md R94, R96). -/
theorem absorb_holds {s : State} {p : Phase} {m : List Byte} (hp : p.isOpen = true) (h : s.Holds ⟨p, m⟩)
    (bytes : List Byte) : (s.absorb bytes).Holds ⟨.accum, m ++ bytes⟩ := by
  obtain ⟨-, hbytes, hlen⟩ := (holds_open_iff hp).1 h
  obtain ⟨hchain, hpend, hbuf⟩ := hbytes.foldl_appendByte bytes
  refine (holds_open_iff rfl).2 ⟨rfl, ⟨hchain, hpend, hbuf⟩, ?_⟩
  rw [absorb_frame, List.length_append, BitVec.ofNat_add, ← hlen]

/-! ### The padding -/

theorem paddedBlock_toList (buf : Vector Byte 64) (p : Fin 64) :
    (paddedBlock buf p).toList = buf.toList.take p.val ++ 0x80 :: List.replicate (63 - p.val) 0 := by
  have := p.isLt
  refine List.ext_getElem (by simp; omega) fun j hj _ => ?_
  have hj : j < 64 := by simpa using hj
  rw [Vector.getElem_toList, show (paddedBlock buf p)[j] = _ from paddedBlock_getElem buf p ⟨j, hj⟩]
  rcases Nat.lt_trichotomy j p.val with h | h | h
  · rw [List.getElem_append_left (by simp; omega)]
    simp [Fin.lt_def, h]
  · rw [List.getElem_append_right (by simp; omega)]
    simp [h]
  · rw [List.getElem_append_right (by simp; omega), List.getElem_cons, dif_neg (by simp; omega), List.getElem_replicate,
      if_neg (by simp [Fin.lt_def]; omega), if_neg (by simp [Fin.ext_iff]; omega)]

theorem withLength_toList (b : Block) (lb : Vector Byte 8) :
    (withLength b lb).toList = b.toList.take 56 ++ lb.toList := by
  refine List.ext_getElem (by simp) fun j hj _ => ?_
  have hj : j < 64 := by simpa using hj
  rw [Vector.getElem_toList]
  by_cases h : j < 56
  · rw [show (withLength b lb)[j] = _ from withLength_getElem_of_lt b lb ⟨j, hj⟩ h,
      List.getElem_append_left (by simpa using h)]
    simp
  · rw [show (withLength b lb)[j] = _ from withLength_getElem_of_le b lb ⟨j, hj⟩ (Nat.not_lt.1 h),
      List.getElem_append_right (by simpa using h)]
    simp

theorem lengthBlock_toList (lb : Vector Byte 8) : (lengthBlock lb).toList = List.replicate 56 0 ++ lb.toList := by
  rw [lengthBlock, withLength_toList]; simp

theorem lengthField_ofNat (n : Nat) : lengthField (BitVec.ofNat 64 n) = be64bytes (BitVec.ofNat 64 (n * 8)) := by
  rw [lengthField, BitVec.ofNat_mul]; rfl

theorem padMessage_length (m : List Byte) : (padMessage m).length = m.length + 1 + zeroFill m.length + 8 := by
  simp [padMessage]; omega

/-- The number of blocks of a padded message (44_finalizer.md R104, R105). -/
theorem padMessage_blocks (m : List Byte) :
    (padMessage m).length / 64 = m.length / 64 + (if m.length % 64 ≤ 55 then 1 else 2) := by
  rw [padMessage_length, zeroFill]; split <;> omega

/-- The full blocks of a message are the first blocks of its padded message. -/
theorem chain_padMessage (m : List Byte) : chain (padMessage m) (m.length / 64) = chain m (m.length / 64) := by
  rw [padMessage, List.append_assoc, List.append_assoc, chain_append _ _ _ (by omega)]

/-- The padded message after the full blocks of the message. -/
theorem padMessage_drop (m : List Byte) :
    (padMessage m).drop (64 * (m.length / 64)) =
      m.drop (64 * (m.length / 64)) ++ 0x80 :: List.replicate (zeroFill m.length) 0 ++
        (lengthField (BitVec.ofNat 64 m.length)).toList := by
  rw [padMessage, List.append_assoc, List.append_assoc, List.drop_append_of_le_length (by omega), lengthField_ofNat]
  simp

/-- The padding that FINALIZE compresses ends the chain of the padded message (44_finalizer.md R103 to R106). -/
theorem State.HoldsBytes.compressPadding_h {s : State} {m : List Byte} (h : s.HoldsBytes m)
    (hlen : s.len = BitVec.ofNat 64 m.length) : s.compressPadding.h = sha256 m := by
  obtain ⟨hchain, hpend, hbuf⟩ := h
  have hpad := padMessage_drop m
  rw [← hbuf, ← hlen] at hpad
  rw [sha256, padMessage_blocks, ← hpend, State.compressPadding]
  by_cases hp : s.pend.val ≤ 55
  · have hfill : zeroFill m.length = 55 - s.pend.val := by rw [zeroFill]; omega
    have block : (padMessage m).drop (64 * (m.length / 64)) =
        (withLength (paddedBlock s.buf s.pend) (lengthField s.len)).toList ++ [] := by
      rw [hpad, hfill, withLength_toList, paddedBlock_toList, List.append_nil,
        show 63 - s.pend.val = 55 - s.pend.val + 8 by omega, List.replicate_add, ← List.cons_append, ← List.append_assoc,
        List.take_left' (by simp; omega)]
    rw [if_pos hp, if_pos hp, chain_succ_of_drop block, chain_padMessage, ← hchain]
    rfl
  · have hfill : zeroFill m.length = 63 - s.pend.val + 56 := by rw [zeroFill]; omega
    have block : (padMessage m).drop (64 * (m.length / 64)) =
        (paddedBlock s.buf s.pend).toList ++ (lengthBlock (lengthField s.len)).toList := by
      rw [hpad, hfill, paddedBlock_toList, lengthBlock_toList, List.replicate_add]
      simp
    have lastBlock : (padMessage m).drop (64 * (m.length / 64 + 1)) = (lengthBlock (lengthField s.len)).toList ++ [] := by
      rw [drop_next_block block, List.append_nil]
    rw [if_neg hp, if_neg hp, chain_succ_of_drop lastBlock, chain_succ_of_drop block, chain_padMessage, ← hchain]
    rfl

/-- A legal FINALIZE closes the session with the digest of its bytes (44_finalizer.md R102, R107, R110). -/
theorem closeSession_holds {s : State} {p : Phase} {m : List Byte} (hp : p.isOpen = true) (h : s.Holds ⟨p, m⟩) :
    s.closeSession.Holds ⟨.final, m⟩ := by
  obtain ⟨-, hbytes, hlen⟩ := (holds_open_iff hp).1 h
  rw [closeSession_eq, hbytes.compressPadding_h hlen]
  exact ⟨rfl, nofun, nofun, nofun, fun _ => hlen, fun _ => ⟨rfl, fun _ => rfl⟩⟩

/-! ### Commands keep the session held -/

/-- Every command does to the core what it does to the session (43_accumulator.md R100). -/
theorem exec_holds {s : State} {σ : Session} (h : s.Holds σ) (i : Instr) :
    ∃ t, exec i s = .next t ∧ t.Holds (σ.after (.ok i)) := by
  refine ⟨_, exec_eq i s, ?_⟩
  cases i with
  | nop => exact h
  | init => exact openSession_holds s
  | update bytes =>
    simp only [h.phase, Session.after]
    by_cases hp : σ.phase.isOpen = true
    · rw [if_pos hp, if_pos hp]; exact absorb_holds hp h bytes
    · rw [if_neg hp, if_neg hp]; exact holds_of_phase rfl rfl nofun
  | finalize =>
    simp only [h.phase, Session.after]
    by_cases hp : σ.phase.isOpen = true
    · rw [if_pos hp, if_pos hp]; exact closeSession_holds hp h
    · rw [if_neg hp, if_neg hp]; exact holds_of_phase rfl rfl nofun

theorem runInstrs_cons_of_exec {i : Instr} {s t : State} (h : exec i s = .next t) (is : List Instr) :
    runInstrs (i :: is) s = runInstrs is t := by
  rw [runInstrs, h]

/-- The session after a sequence of commands. -/
def Session.afterAll (σ : Session) (is : List Instr) : Session := is.foldl (fun σ i => σ.after (.ok i)) σ

theorem afterAll_append (σ : Session) (is js : List Instr) : σ.afterAll (is ++ js) = (σ.afterAll is).afterAll js :=
  List.foldl_append

theorem runInstrs_holds {s : State} {σ : Session} (h : s.Holds σ) (is : List Instr) :
    ∃ t, runInstrs is s = .next t ∧ t.Holds (σ.afterAll is) := by
  induction is generalizing s σ with
  | nil => exact ⟨s, rfl, h⟩
  | cons i is ih =>
    obtain ⟨u, hu, hheld⟩ := exec_holds h i
    rw [runInstrs_cons_of_exec hu]
    exact ih hheld

/-! ### UPDATE_CHUNK and HASH -/

/-- The beats deliver the chunk (30_encoding.md R62). -/
theorem beats_flatten (bytes : List Byte) : (beats bytes).flatten = bytes := by
  induction bytes using beats.induct with
  | case1 => rfl
  | case2 => rfl
  | case3 => rfl
  | case4 => rfl
  | case5 b0 b1 b2 b3 rest ih => rw [beats, List.flatten_cons, ih]; rfl

theorem beats_ne_nil {bytes : List Byte} (h : bytes ≠ []) : beats bytes ≠ [] := fun hnil =>
  h (by rw [← beats_flatten bytes, hnil]; rfl)

/-- Beats sent to an open session add their bytes to it; after the first the phase is ACCUM. -/
theorem afterAll_update {σ : Session} (hσ : σ.phase.isOpen = true) (bs : List (List Byte)) (hbs : bs ≠ []) :
    σ.afterAll (bs.map .update) = ⟨.accum, σ.msg ++ bs.flatten⟩ := by
  induction bs generalizing σ with
  | nil => exact absurd rfl hbs
  | cons b bs ih =>
    have head : σ.afterAll ((b :: bs).map .update) = Session.afterAll ⟨.accum, σ.msg ++ b⟩ (bs.map .update) := by
      simp [Session.afterAll, Session.after, hσ]
    rw [head]
    rcases eq_or_ne bs [] with rfl | hne
    · simp [Session.afterAll]
    · rw [ih rfl hne]; simp

/-- UPDATE_CHUNK delivers its bytes to an open session (30_encoding.md R62). -/
theorem afterAll_updateChunk {σ : Session} (hσ : σ.phase.isOpen = true) (m : List Byte) :
    σ.afterAll (updateChunk m) = ⟨.accum, σ.msg ++ m⟩ := by
  unfold updateChunk
  split
  · next hm => subst hm; exact afterAll_update hσ [[]] nofun
  · next hm => rw [afterAll_update hσ _ (beats_ne_nil hm), beats_flatten]

/-- What HASH sends after its INIT closes a fresh session over its bytes (30_encoding.md R63). -/
theorem afterAll_chunk_finalize (m : List Byte) :
    Session.afterAll ⟨.fresh, []⟩ (updateChunk m ++ [.finalize]) = ⟨.final, m⟩ := by
  rw [afterAll_append, afterAll_updateChunk rfl]
  rfl

/-- Settles O44: INIT opens a session that the core holds, whatever was there before, and the commands after it keep it
held to its end. -/
theorem hashCommandsGiveDigest : Obligations.HashCommandsGiveDigest := by
  unfold Obligations.HashCommandsGiveDigest
  intro s m hm
  obtain ⟨t, hrun, hheld⟩ := runInstrs_holds (openSession_holds s) (updateChunk m ++ [.finalize])
  rw [afterAll_chunk_finalize] at hheld
  obtain ⟨hdv, hdigest⟩ := hheld.digested rfl
  exact ⟨t, (runInstrs_cons_of_exec rfl _).trans hrun, hheld.phase, hdv, hdigest hm⟩

end Sys2Proof.Machine

namespace Sys2Proof.Machine

/-! ### The fields a legal UPDATE and a legal FINALIZE leave -/

@[simp] theorem State.absorb_digest (s : State) (bytes : List Byte) : (s.absorb bytes).digest = s.digest := by
  rw [absorb_frame]
@[simp] theorem State.absorb_dv (s : State) (bytes : List Byte) : (s.absorb bytes).dv = s.dv := by
  rw [absorb_frame]
@[simp] theorem State.absorb_errMisuse (s : State) (bytes : List Byte) : (s.absorb bytes).errMisuse = s.errMisuse := by
  rw [absorb_frame]
@[simp] theorem State.absorb_errIllegal (s : State) (bytes : List Byte) : (s.absorb bytes).errIllegal = s.errIllegal := by
  rw [absorb_frame]
@[simp] theorem State.absorb_cause (s : State) (bytes : List Byte) : (s.absorb bytes).cause = s.cause := by
  rw [absorb_frame]
@[simp] theorem State.absorb_port (s : State) (bytes : List Byte) : (s.absorb bytes).port = s.port := by
  rw [absorb_frame]
@[simp] theorem State.absorb_host (s : State) (bytes : List Byte) : (s.absorb bytes).host = s.host := by
  rw [absorb_frame]
@[simp] theorem State.absorb_freeIx (s : State) (bytes : List Byte) : (s.absorb bytes).freeIx = s.freeIx := by
  rw [absorb_frame]

@[simp] theorem State.closeSession_digest (s : State) : s.closeSession.digest = s.closeSession.h := rfl
@[simp] theorem State.closeSession_dv (s : State) : s.closeSession.dv = true := rfl
@[simp] theorem State.closeSession_buf (s : State) : s.closeSession.buf = s.buf := by rw [closeSession_eq]
@[simp] theorem State.closeSession_len (s : State) : s.closeSession.len = s.len := by rw [closeSession_eq]
@[simp] theorem State.closeSession_errMisuse (s : State) : s.closeSession.errMisuse = s.errMisuse := by
  rw [closeSession_eq]
@[simp] theorem State.closeSession_errIllegal (s : State) : s.closeSession.errIllegal = s.errIllegal := by
  rw [closeSession_eq]
@[simp] theorem State.closeSession_cause (s : State) : s.closeSession.cause = s.cause := by rw [closeSession_eq]
@[simp] theorem State.closeSession_port (s : State) : s.closeSession.port = s.port := by rw [closeSession_eq]
@[simp] theorem State.closeSession_host (s : State) : s.closeSession.host = s.host := by rw [closeSession_eq]
@[simp] theorem State.closeSession_freeIx (s : State) : s.closeSession.freeIx = s.freeIx := by rw [closeSession_eq]

/-! ### What an instruction and a word can do -/

theorem isOpen_eq_false_iff (p : Phase) : p.isOpen = false ↔ p = .idle ∨ p = .final ∨ p = .error := by
  cases p <;> simp [Phase.isOpen]

theorem updateMisuse_isIllegal (p : Phase) : (updateMisuse p).isIllegal = false := by
  unfold updateMisuse; split <;> rfl

theorem finalizeMisuse_isIllegal (p : Phase) : (finalizeMisuse p).isIllegal = false := by
  unfold finalizeMisuse; split <;> rfl

/-- An instruction does nothing, opens, extends or closes the session, or is a misuse (43_accumulator.md R100). -/
theorem exec_cases {i : Instr} {s t : State} (h : exec i s = .next t) :
    (i = .nop ∧ t = s) ∨ (i = .init ∧ t = s.openSession) ∨
    (∃ bytes, i = .update bytes ∧ s.phase.isOpen = true ∧ t = s.absorb bytes) ∨
    (i = .finalize ∧ s.phase.isOpen = true ∧ t = s.closeSession) ∨
    ((i = .finalize ∨ ∃ bytes, i = .update bytes) ∧ s.phase.isOpen = false ∧
      ∃ c : Cause, c.isIllegal = false ∧ t = s.raiseError c) := by
  rw [exec_eq] at h
  injection h with h
  cases i with
  | nop => exact .inl ⟨rfl, h.symm⟩
  | init => exact .inr (.inl ⟨rfl, h.symm⟩)
  | update bytes =>
    cases ho : s.phase.isOpen
    · simp only [ho, Bool.false_eq_true, if_false] at h
      exact .inr (.inr (.inr (.inr ⟨.inr ⟨bytes, rfl⟩, rfl, _, updateMisuse_isIllegal _, h.symm⟩)))
    · simp only [ho, if_true] at h
      exact .inr (.inr (.inl ⟨bytes, rfl, rfl, h.symm⟩))
  | finalize =>
    cases ho : s.phase.isOpen
    · simp only [ho, Bool.false_eq_true, if_false] at h
      exact .inr (.inr (.inr (.inr ⟨.inl rfl, rfl, _, finalizeMisuse_isIllegal _, h.symm⟩)))
    · simp only [ho, if_true] at h
      exact .inr (.inr (.inr (.inl ⟨rfl, rfl, h.symm⟩)))

/-- A word is error entry or its instruction (43_accumulator.md R100). -/
theorem execWord_cases {w : Word64} {s t : State} (h : execWord w s = .next t) :
    (∃ e, decode w = .error e ∧ t = s.raiseError (causeOfIllegal e)) ∨ ∃ i, decode w = .ok i ∧ exec i s = .next t := by
  rcases hw : decode w with e | i
  · rw [execWord_of_error hw] at h
    injection h with h
    exact .inl ⟨e, rfl, h.symm⟩
  · rw [execWord_of_ok hw] at h
    exact .inr ⟨i, rfl, h⟩

/-- Settles O37, by what an instruction can do. -/
theorem whoWritesWhat : Obligations.WhoWritesWhat := by
  unfold Obligations.WhoWritesWhat
  intro i s t h
  rcases exec_cases h with ⟨rfl, rfl⟩ | ⟨rfl, rfl⟩ | ⟨bytes, rfl, ho, rfl⟩ | ⟨rfl, ho, rfl⟩ | ⟨hi, ho, c, hc, rfl⟩
  · simp
  · simp
  · simp [ho]
  · simp [ho]
  · simp [ho, hi, hc]

/-- Settles O26, by what the word can do: error entry, or one of the five things an instruction does. -/
theorem phaseFollowsTransitionTable : Obligations.PhaseFollowsTransitionTable := by
  unfold Obligations.PhaseFollowsTransitionTable
  intro s w _
  obtain ⟨u, hu, ht⟩ := transact_eq w s
  refine ⟨_, ht, ?_⟩
  rw [State.release_phase]
  rcases execWord_cases hu with ⟨e, hw, rfl⟩ | ⟨i, hw, hexec⟩ <;> rw [hw]
  · rfl
  rcases exec_cases hexec with ⟨rfl, rfl⟩ | ⟨rfl, rfl⟩ | ⟨bytes, rfl, ho, rfl⟩ | ⟨rfl, ho, rfl⟩ | ⟨hi, ho, c, -, rfl⟩
  · rfl
  · rfl
  · rcases (isOpen_iff _).1 ho with hp | hp <;> rw [show s.phase = _ from hp] <;> rfl
  · rcases (isOpen_iff _).1 ho with hp | hp <;> rw [show s.phase = _ from hp] <;> rfl
  · rw [State.accept_phase] at ho
    rcases hi with rfl | ⟨bytes, rfl⟩ <;> rcases (isOpen_eq_false_iff _).1 ho with hp | hp | hp <;> rw [hp] <;> rfl

/-- In an open session no digest is valid. -/
theorem State.Inv.dv_of_isOpen {s : State} (h : s.Inv) (ho : s.phase.isOpen = true) : s.dv = false := by
  rw [Bool.eq_false_iff, Ne, h.digestValid]
  intro hf
  rw [hf] at ho
  cases ho

/-- Settles O39: only FINALIZE in an open session sets DV, and a word that keeps DV is NOP or an UPDATE in an open
session, where the invariant has DV 0. -/
theorem digestValidTransitions : Obligations.DigestValidTransitions := by
  unfold Obligations.DigestValidTransitions
  intro s t w hinv _ h
  obtain ⟨u, hu, rfl⟩ := completeWord_next (s := s.accept w) h
  rw [State.release_dv]
  rcases execWord_cases hu with ⟨e, hw, rfl⟩ | ⟨i, hw, hexec⟩ <;> rw [hw]
  · simp
  rcases exec_cases hexec with ⟨rfl, rfl⟩ | ⟨rfl, rfl⟩ | ⟨bytes, rfl, ho, rfl⟩ | ⟨rfl, ho, rfl⟩ | ⟨hi, ho, c, -, rfl⟩
  · simp
  · simp
  · simp [hinv.dv_of_isOpen ho]
  · simpa using ho
  · rw [State.accept_phase] at ho
    rcases hi with rfl | ⟨bytes, rfl⟩ <;> simp [ho]

/-! ### Errors are sticky -/

/-- `t` has every error bit that `s` has, and the cause that `s` has recorded (10_state.md R25, R26). -/
def State.KeepsErrors (s t : State) : Prop :=
  (s.errMisuse = true → t.errMisuse = true) ∧ (s.errIllegal = true → t.errIllegal = true) ∧
    (s.cause ≠ .none → t.cause = s.cause)

theorem keepsErrors_of_eq {s t : State} (hm : t.errMisuse = s.errMisuse) (hi : t.errIllegal = s.errIllegal)
    (hc : t.cause = s.cause) : s.KeepsErrors t :=
  ⟨hm.trans, hi.trans, fun _ => hc⟩

theorem raiseError_keepsErrors (s : State) (c : Cause) : s.KeepsErrors (s.raiseError c) :=
  ⟨fun h => by simp [h], fun h => by simp [h], fun h => if_neg h⟩

theorem exec_keepsErrors {i : Instr} {s t : State} (h : exec i s = .next t) : s.KeepsErrors t := by
  rcases exec_cases h with ⟨-, rfl⟩ | ⟨-, rfl⟩ | ⟨bytes, -, -, rfl⟩ | ⟨-, -, rfl⟩ | ⟨-, -, c, -, rfl⟩
  · exact keepsErrors_of_eq rfl rfl rfl
  · exact keepsErrors_of_eq rfl rfl rfl
  · exact keepsErrors_of_eq (by simp) (by simp) (by simp)
  · exact keepsErrors_of_eq (by simp) (by simp) (by simp)
  · exact raiseError_keepsErrors s c

theorem completeWord_keepsErrors {w : Word64} {s t : State} (h : completeWord w s = .next t) : s.KeepsErrors t := by
  obtain ⟨u, hu, rfl⟩ := completeWord_next h
  change s.KeepsErrors u
  rcases execWord_cases hu with ⟨e, -, rfl⟩ | ⟨i, -, hexec⟩
  · exact raiseError_keepsErrors s _
  · exact exec_keepsErrors hexec

theorem settle_keepsErrors {s t : State} (h : settle s = .next t) : s.KeepsErrors t := by
  rcases settle_cases h with ⟨-, rfl⟩ | ⟨w, -, hw⟩ | ⟨-, rfl⟩
  · exact keepsErrors_of_eq rfl rfl rfl
  · exact completeWord_keepsErrors hw
  · exact keepsErrors_of_eq rfl rfl rfl

/-- Settles O24: settling the port and running a word keep the errors, and accepting a word does not touch them. -/
theorem errorsAreStickyUntilReset : Obligations.ErrorsAreStickyUntilReset := by
  unfold Obligations.ErrorsAreStickyUntilReset
  intro s t hr h
  change s.KeepsErrors t
  rcases step_cases h with ⟨hs, -⟩ | ⟨rest, -, hs⟩ | ⟨rest, hh, -⟩ | ⟨w, rest, -, -, hw⟩ | ⟨w, rest, -, -, rfl⟩
  · exact settle_keepsErrors hs
  · exact settle_keepsErrors (s := s.setHost rest) hs
  · simp [hh] at hr
  · exact completeWord_keepsErrors (s := (s.setHost rest).accept w) hw
  · exact keepsErrors_of_eq rfl rfl rfl

end Sys2Proof.Machine

namespace Sys2Proof.Machine

/-! ### The read port -/

/-- Settles O34: STATUS is a concatenation, and each field or bit lies inside one of its parts. -/
theorem statusLayout : Obligations.StatusLayout := by
  unfold Obligations.StatusLayout
  intro s
  refine ⟨?_, ?_, ?_, ?_, ?_, ?_, ?_, ?_, ?_, ?_, by decide⟩ <;>
    simp (disch := decide) only [State.status, BitVec.extractLsb'_append_eq_of_le,
      BitVec.extractLsb'_append_eq_of_add_le, BitVec.getLsbD_append] <;>
    simp

/-- Acceptance of a word sets bit 31 of STATUS and nothing else (10_state.md R33). -/
theorem status_accept (s : State) (w : Word64) : (s.accept w).status = s.status ||| 0x80000000 := by
  have mask : (0x80000000 : Word) = BitVec.ofBool true ++ (0 : BitVec 9) ++ (0 : BitVec 6) ++ (0 : BitVec 4) ++
    (0 : BitVec 4) ++ (0 : BitVec 2) ++ BitVec.ofBool false ++ BitVec.ofBool false ++ BitVec.ofBool false ++
    (0 : BitVec 3) := by decide
  have top : BitVec.ofBool (s.accept w).busy = BitVec.ofBool s.busy ||| BitVec.ofBool true := by cases s.busy <;> rfl
  rw [mask, State.status, State.status, top]
  iterate 9 rw [BitVec.or_append]
  simp

/-- The reserved bits of STATUS are zero (10_state.md R31). -/
theorem status_reserved (s : State) : s.status &&& 0x7FC0F0C0 = 0 := by
  have mask : (0x7FC0F0C0 : Word) = BitVec.ofBool false ++ BitVec.allOnes 9 ++ (0 : BitVec 6) ++ BitVec.allOnes 4 ++
    (0 : BitVec 4) ++ BitVec.allOnes 2 ++ BitVec.ofBool false ++ BitVec.ofBool false ++ BitVec.ofBool false ++
    (0 : BitVec 3) := by decide
  rw [mask, State.status]
  iterate 9 rw [BitVec.and_append]
  simp

theorem rdData_of_ne_inReset {s : State} (hp : s.port ≠ .inReset) (a : BitVec 4) : s.rdData a = s.readRegister a := by
  unfold State.rdData
  split
  · rfl
  · rfl
  · next h => exact absurd h hp

theorem rdData_of_inReset {s : State} (hp : s.port = .inReset) (a : BitVec 4) : s.rdData a = s.readFree a := by
  simp [State.rdData, hp]

theorem readRegister_reserved (s : State) {a : BitVec 4} (h3 : 3 ≤ a.toNat) (h7 : a.toNat ≤ 7) :
    s.readRegister a = 0 := by
  rw [State.readRegister, if_neg (by bv_omega), if_neg (by bv_omega), if_neg (by bv_omega), if_pos (by omega)]

theorem readRegister_digest (s : State) {a : BitVec 4} (h : 8 ≤ a.toNat) :
    s.readRegister a = s.digest[a.toNat % 8] := by
  rw [State.readRegister, if_neg (by bv_omega), if_neg (by bv_omega), if_neg (by bv_omega), if_neg (by omega)]

theorem readFree_reserved (s : State) {a : BitVec 4} (h3 : 3 ≤ a.toNat) (h7 : a.toNat ≤ 7) : s.readFree a = 0 := by
  rw [State.readFree, if_neg (by bv_omega), if_pos ⟨h3, h7⟩]

theorem readFree_statusReserved (s : State) : s.readFree 0 &&& 0x7FC0F0C0 = 0 := by
  rw [State.readFree, if_pos rfl, BitVec.and_assoc]
  exact BitVec.and_zero

/-- Settles O35, by the map of the port in reset and outside it. -/
theorem readPortMap : Obligations.ReadPortMap := by
  unfold Obligations.ReadPortMap
  intro s
  by_cases hp : s.port = .inReset
  · simp only [rdData_of_inReset hp]
    exact ⟨fun a h3 h7 => readFree_reserved s h3 h7, readFree_statusReserved s, fun h => absurd hp h⟩
  simp only [rdData_of_ne_inReset hp]
  refine ⟨fun a h3 h7 => readRegister_reserved s h3 h7, status_reserved s, fun _ => ⟨rfl, ?_, ?_, fun i => ?_⟩⟩
  · exact BitVec.extractLsb'_toNat ..
  · have := s.len.isLt
    rw [show s.readRegister 2 = s.len.extractLsb' 32 32 from rfl, BitVec.extractLsb'_toNat, Nat.shiftRight_eq_div_pow]
    omega
  · have ha : (BitVec.ofNat 4 (8 + i.val)).toNat = 8 + i.val := by simp; omega
    have hi : (BitVec.ofNat 4 (8 + i.val)).toNat % 8 = i.val := by omega
    rw [readRegister_digest s (by omega)]
    simp only [hi]
    rfl

/-- Settles O27: every field and every register of the state after reset, written out. -/
theorem resetStateValues : Obligations.ResetStateValues := by
  unfold Obligations.ResetStateValues
  exact ⟨rfl, by decide, by decide, rfl, rfl, by decide, rfl, rfl, rfl, rfl, rfl, rfl, by decide⟩

/-- Settles O41: no session is open after reset, and no error is recorded. -/
theorem resetHasInvariant : Obligations.ResetHasInvariant := by
  unfold Obligations.ResetHasInvariant
  exact {
    openCount := nofun
    freshSession := nofun
    finalSession := nofun
    digestValid := by decide
    causeNone := by decide
    causeClass := ⟨nofun, nofun⟩
    errorRecorded := nofun
    idleReset := fun _ => ⟨rfl, rfl, rfl, rfl, rfl, rfl⟩
    resetHeld := nofun }

/-! ### A command split between acceptance and completion -/

/-- What the host still has to do after a step that began with BUSY 1: an idle cycle is over, a word is held
(70_reset_and_hazards.md R141). -/
def hostAfterBusy : List HostInput → List HostInput
  | .wait :: rest => rest
  | hs => hs

/-- A step with BUSY 1 and no reset completes the word in execution, whatever the host presents. -/
theorem step_of_executing {s : State} {w : Word64} (hp : s.port = .executing w) (hr : s.host.head? ≠ some .reset) :
    step s = completeWord w (s.setHost (hostAfterBusy s.host)) := by
  have settled (hs : List HostInput) : settle (s.setHost hs) = completeWord w (s.setHost hs) := by simp [settle, hp]
  have busy : s.cmdReady = false := by simp [State.cmdReady, hp]
  have held : s.setHost s.host = s := rfl
  rw [← settled]
  rcases hh : s.host with _ | ⟨_ | _ | _ | _, rest⟩ <;> rw [hh] at held hr
  case nil => simp [step, hostStep, hh, hostAfterBusy, held]
  case cons.command w => simp [step, hostStep, hh, hostAfterBusy, held, busy]
  case cons.accept w => simp [step, hostStep, hh, hostAfterBusy, held, busy]
  case cons.wait => simp [step, hostStep, hh, hostAfterBusy]
  case cons.reset => simp at hr

/-- A word to accept only, presented at a ready port, is accepted. -/
theorem step_of_accept {s : State} {w : Word64} {rest : List HostInput} (hp : s.port = .ready)
    (hh : s.host = .accept w :: rest) : step s = .next ((s.setHost rest).accept w) := by
  simp [step, hostStep, hh, State.cmdReady, hp]

/-- The read port after acceptance: bit 31 of STATUS is set, nothing else has changed (10_state.md R33). -/
theorem rdData_accept {s : State} (hp : s.port = .ready) (w : Word64) (a : BitVec 4) :
    (s.accept w).rdData a = if a = 0 then s.rdData a ||| 0x80000000 else s.rdData a := by
  rw [rdData_of_ne_inReset (by simp), rdData_of_ne_inReset (by simp [hp])]
  split
  · next ha => rw [ha]; exact status_accept s w
  · next ha => rw [State.readRegister, State.readRegister, if_neg ha, if_neg ha]; rfl

/-- Settles O30: the accepted word is the state's, so the next step runs the whole transaction, and only the host's list tells
the state it runs in from the one the word was accepted in. -/
theorem acceptedWordCommitsAtCompletion : Obligations.AcceptedWordCommitsAtCompletion := by
  unfold Obligations.AcceptedWordCommitsAtCompletion
  intro s w next hp hh
  refine ⟨(s.setHost next).accept w, step_of_accept hp hh, rfl, rfl, rfl, ?_, fun a ha => ?_, fun hr => ?_⟩
  · exact rdData_accept (s := s.setHost next) hp w 0
  · rw [rdData_accept (s := s.setHost next) hp, if_neg ha]; rfl
  obtain ⟨u, hu, ht⟩ := transact_eq w (s.setHost (hostAfterBusy next))
  obtain ⟨-, hhost, -⟩ := execWord_port hu
  have host : u.release.host = hostAfterBusy next := hhost
  have completes : step ((s.setHost next).accept w) = .next u.release := (step_of_executing rfl hr).trans ht
  refine ⟨u.release, completes, rfl, rfl, by rw [host]; exact ht, ?_, ?_, ?_, ?_⟩
  · rintro rfl; exact host
  · rintro rest rfl; exact host
  · rintro v rest rfl; exact ⟨host, step_of_accept rfl host⟩
  · rintro v rest rfl; exact ⟨host, step_of_command rfl host⟩

end Sys2Proof.Machine

namespace Sys2Proof.Machine

/-! ### A word keeps the session held -/

/-- No clause of a held session reads the port. -/
theorem State.Holds.withPort {s : State} {σ : Session} (h : s.Holds σ) (p : CmdPort) :
    ({ s with port := p } : State).Holds σ :=
  ⟨h.phase, h.chained, h.pendCount, h.pending, h.count, h.digested⟩

/-- Every word does to the core what it does to the session; a word that is no command ends both (43_accumulator.md R100). -/
theorem execWord_holds {s : State} {σ : Session} (h : s.Holds σ) (w : Word64) :
    ∃ t, execWord w s = .next t ∧ t.Holds (σ.after (decode w)) := by
  rcases hw : decode w with e | i
  · exact ⟨_, execWord_of_error hw s, holds_of_phase rfl rfl nofun⟩
  · rw [execWord_of_ok hw]
    exact exec_holds h i

theorem transact_holds {s : State} {σ : Session} (h : s.Holds σ) (w : Word64) :
    ∃ t, transact w s = .next t ∧ t.port = .ready ∧ t.Holds (σ.after (decode w)) := by
  obtain ⟨u, hu, hheld⟩ := execWord_holds (h.withPort (.executing w)) w
  exact ⟨u.release, congrArg (onNext State.release) hu, rfl, hheld.withPort .ready⟩

/-- Settles O46: acceptance and release move the port only, and between them the word keeps the session held. -/
theorem coreHoldsTheSession : Obligations.CoreHoldsTheSession := by
  unfold Obligations.CoreHoldsTheSession
  intro s σ w _ h
  exact transact_holds h w

/-! ### Words one after the other -/

/-- Every word is executed to its completion, and the host's list is left alone (70_reset_and_hazards.md R148). -/
theorem transact_next (w : Word64) (s : State) :
    ∃ t, transact w s = .next t ∧ t.port = .ready ∧ t.host = s.host := by
  obtain ⟨u, hu, ht⟩ := transact_eq w s
  obtain ⟨-, hhost, -⟩ := execWord_port hu
  exact ⟨u.release, ht, rfl, hhost⟩

/-- The complete execution of a word does not read what the host does next. -/
theorem transact_setHost (w : Word64) (s : State) (hs : List HostInput) :
    transact w (s.setHost hs) = onNext (fun t => t.setHost hs) (transact w s) := by
  obtain ⟨u, hu, ht⟩ := transact_eq w s
  have ran : execWord w ((s.setHost hs).accept w) = .next (u.setHost hs) :=
    (execWord_setHost w (s.accept w) hs).trans (congrArg (onNext fun t => t.setHost hs) hu)
  rw [ht, transact, completeWord, ran]
  rfl

theorem runSteps_succ_of_step {s t : State} (h : step s = .next t) (n : Nat) : runSteps (n + 1) s = runSteps n t := by
  rw [runSteps, h]

theorem runWords_cons_of_transact {w : Word64} {s t : State} (h : transact w s = .next t) (ws : List Word64) :
    runWords (w :: ws) s = runWords ws t := by
  rw [runWords, h]

/-- Settles O47, by induction on the words: the step takes the first one, whose effect is the same with the rest of the list
and without it, and leaves a ready port for the others. -/
theorem stepsRunWordsInOrder : Obligations.StepsRunWordsInOrder := by
  unfold Obligations.StepsRunWordsInOrder
  intro ws rest s hp hh
  change ∃ t, _ ∧ runWords ws (s.setHost rest) = .next t ∧ _
  induction ws generalizing s with
  | nil =>
    have same : s.setHost rest = s := by rw [← show s.host = rest from hh]; rfl
    exact ⟨s, rfl, congrArg Host.Outcome.next same, hp, hh⟩
  | cons w ws ih =>
    obtain ⟨u, hu, hready, hhost⟩ := transact_next w (s.setHost (ws.map .command ++ rest))
    have stepped : step s = .next u := (step_of_command hp hh).trans hu
    have worded : transact w (s.setHost rest) = .next (u.setHost rest) :=
      (transact_setHost w (s.setHost (ws.map .command ++ rest)) rest).trans (by rw [hu, onNext_next])
    rw [List.length_cons, runSteps_succ_of_step stepped, runWords_cons_of_transact worded]
    exact ih u hready hhost

/-! ### The digest as bytes -/

/-- Byte `4i + k` of the digest is byte `k` of its word `i`, the most significant first (20_memory.md R39). -/
theorem digestBytes_getElem_toNat (s : State) {i k : Nat} (hi : i < 8) (hk : k < 4) :
    (s.digestBytes[4 * i + k]).toNat = s.digest[i].toNat / 2 ^ (24 - 8 * k) % 256 := by
  have word : (4 * i + k) / 4 = i := by omega
  have byte : (4 * i + k) % 4 = k := by omega
  simp [State.digestBytes, word, byte, Nat.shiftRight_eq_div_pow]

/-- Settles O36: the position `4i + k` is inside the 32 bytes. -/
theorem digestBytesAreBigEndian : Obligations.DigestBytesAreBigEndian := by
  unfold Obligations.DigestBytesAreBigEndian
  intro s i k
  have inside : 4 * i.val + k.val < s.digestBytes.toList.length := by simp; omega
  rw [List.getD_eq_getElem _ _ inside, Vector.getElem_toList]
  exact digestBytes_getElem_toNat s i.isLt k.isLt

/-! ### The cores of a platform -/

/-- A step of a core that exists replaces that core's state (20_memory.md R48). -/
theorem platformStep_of_step {cores : List State} {i : Nat} {s t : State} (hi : cores[i]? = some s)
    (hs : step s = .next t) : platformStep cores i = cores.set i t := by
  simp [platformStep, hi, hs]

/-- Settles O50: the platform's step sets one place of the list. -/
theorem coresAreIndependent : Obligations.CoresAreIndependent := by
  unfold Obligations.CoresAreIndependent
  intro cores i s t hi hs
  obtain ⟨inside, -⟩ := List.getElem?_eq_some_iff.1 hi
  rw [platformStep_of_step hi hs]
  exact ⟨List.getElem?_set_self inside, fun j hj => List.getElem?_set_ne hj.symm⟩

end Sys2Proof.Machine

namespace Sys2Proof

/-! ### What the decoder answers -/

theorem opField_eq_iff (w : Word64) (op : BitVec 4) : opField w = op ↔ w.toNat / 2 ^ 60 = op.toNat := by
  rw [← opField_toNat, BitVec.toNat_inj]

theorem rsvField_eq_zero_iff (w : Word64) : rsvField w = 0 ↔ w.toNat / 2 ^ 35 % 2 ^ 25 = 0 := by
  rw [← rsvField_toNat, ← BitVec.toNat_inj]; rfl

/-- The carried bytes, lane by lane (30_encoding.md R54, R55). -/
theorem carriedBytes_eq_map (w : Word64) :
    carriedBytes w = (List.range (min (nbField w).toNat 4)).map fun k => w.extractLsb' (24 - 8 * k) 8 := by
  have lane (start : Nat) (hs : start + 8 ≤ 32) :
      (dataField w).extractLsb' start 8 = w.extractLsb' start 8 := BitVec.extractLsb'_extractLsb'_of_le hs
  rw [carriedBytes, lanes, lane 24 (by omega), lane 16 (by omega), lane 8 (by omega), lane 0 (by omega),
    ← List.take_range, List.map_take]
  rfl

theorem carriedBytes_length (w : Word64) : (carriedBytes w).length = min (nbField w).toNat 4 := by
  simp [carriedBytes_eq_map]

/-- A word that carries as many bytes as NB says has NB 4 at most. -/
theorem nbField_le_of_length {w : Word64} (h : (nbField w).toNat = (carriedBytes w).length) : (nbField w).toNat ≤ 4 := by
  rw [h, carriedBytes_length]; omega

theorem carriedBytes_of_nb_zero {w : Word64} (h : nbField w = 0) : carriedBytes w = [] := by
  simp [carriedBytes, h]

/-- A word is illegal for one of the three reasons, or it is the command whose opcode, byte count and bytes are in its
fields (30_encoding.md R58). -/
theorem decode_cases (w : Word64) :
    (4 ≤ (opField w).toNat ∧ decode w = .error .illegalOpcode) ∨
    ((opField w).toNat < 4 ∧ (rsvField w ≠ 0 ∨ opField w ≠ 2 ∧ nbField w ≠ 0) ∧ decode w = .error .reservedBits) ∨
    (opField w = 2 ∧ rsvField w = 0 ∧ 4 < (nbField w).toNat ∧ decode w = .error .badLength) ∨
    ∃ i : Instr, opField w = i.opcode ∧ rsvField w = 0 ∧ (nbField w).toNat = i.payload.length ∧
      carriedBytes w = i.payload ∧ decode w = .ok i := by
  unfold decode
  split_ifs with hop hrsv hnb hbad h0 h1 h2
  · exact .inl ⟨hop, rfl⟩
  · exact .inr (.inl ⟨Nat.not_le.1 hop, .inl hrsv, rfl⟩)
  · exact .inr (.inl ⟨Nat.not_le.1 hop, .inr hnb, rfl⟩)
  · exact .inr (.inr (.inl ⟨hbad.1, not_not.1 hrsv, hbad.2, rfl⟩))
  all_goals
    have hrsv := not_not.1 hrsv
    refine .inr (.inr (.inr ?_))
  · have hnb : nbField w = 0 := by simpa [h0] using hnb
    exact ⟨.nop, h0, hrsv, by simp [hnb, Instr.payload], carriedBytes_of_nb_zero hnb, rfl⟩
  · have hnb : nbField w = 0 := by simpa [h1] using hnb
    exact ⟨.init, h1, hrsv, by simp [hnb, Instr.payload], carriedBytes_of_nb_zero hnb, rfl⟩
  · have hle : (nbField w).toNat ≤ 4 := by simpa [h2] using hbad
    exact ⟨.update (carriedBytes w), h2, hrsv, by rw [Instr.payload, carriedBytes_length, Nat.min_eq_left hle], rfl, rfl⟩
  · have hnb : nbField w = 0 := not_not.1 fun h => hnb ⟨h2, h⟩
    have hop : opField w = 3 := by bv_omega
    exact ⟨.finalize, hop, hrsv, by simp [hnb, Instr.payload], carriedBytes_of_nb_zero hnb, rfl⟩

theorem opcode_toNat_lt (i : Instr) : i.opcode.toNat < 4 := by cases i <;> simp [Instr.opcode]

theorem payload_eq_nil_of_opcode_ne {i : Instr} (h : i.opcode ≠ 2) : i.payload = [] := by
  cases i with
  | nop => rfl
  | init => rfl
  | update bytes => exact absurd rfl h
  | finalize => rfl

/-- A word whose fields are those of a command is that command (30_encoding.md R58). -/
theorem decode_of_fields {w : Word64} {i : Instr} (hop : opField w = i.opcode) (hrsv : rsvField w = 0)
    (hnb : (nbField w).toNat = i.payload.length) (hbytes : carriedBytes w = i.payload) : decode w = .ok i := by
  have none_carried (h : i.payload = []) : nbField w = 0 := BitVec.eq_of_toNat_eq (hnb.trans (by rw [h]; rfl))
  cases i with
  | nop => simp [decode, hop, hrsv, none_carried rfl, Instr.opcode]
  | init => simp [decode, hop, hrsv, none_carried rfl, Instr.opcode]
  | update bytes =>
    have four_at_most : ¬ 4 < (nbField w).toNat := Nat.not_lt.2 (nbField_le_of_length (by rw [hnb, hbytes]))
    simp [decode, hop, hrsv, four_at_most, hbytes, Instr.opcode, Instr.payload]
  | finalize => simp [decode, hop, hrsv, none_carried rfl, Instr.opcode]

/-- The words of a command, by their fields. -/
theorem decode_eq_ok_iff (w : Word64) (i : Instr) :
    decode w = .ok i ↔ opField w = i.opcode ∧ rsvField w = 0 ∧ (nbField w).toNat = i.payload.length ∧
      carriedBytes w = i.payload := by
  refine ⟨fun h => ?_, fun ⟨hop, hrsv, hnb, hbytes⟩ => decode_of_fields hop hrsv hnb hbytes⟩
  rcases decode_cases w with ⟨-, hw⟩ | ⟨-, -, hw⟩ | ⟨-, -, -, hw⟩ | ⟨j, hop, hrsv, hnb, hbytes, hw⟩ <;> rw [hw] at h
  · cases h
  · cases h
  · cases h
  · cases h
    exact ⟨hop, hrsv, hnb, hbytes⟩

/-! ### Decoding an encoded command -/

/-- Bytes packed into the lanes are taken out again. -/
theorem take_lanes_packLanes {bytes : List Byte} (h : bytes.length ≤ 4) :
    (lanes (packLanes bytes)).take bytes.length = bytes := by
  rw [packLanes, lanes_append]
  match bytes, h with
  | [], _ => rfl
  | [_], _ => rfl
  | [_, _], _ => rfl
  | [_, _, _], _ => rfl
  | [_, _, _, _], _ => rfl

theorem fields_encode (i : Instr) : Laws.Fields.Statement i := by
  cases i with
  | nop => exact Laws.Fields.nop
  | init => exact Laws.Fields.init
  | update bytes => exact Laws.Fields.update bytes
  | finalize => exact Laws.Fields.finalize

theorem payload_length_le_of_wellFormed {i : Instr} (h : i.wellFormed = true) : i.payload.length ≤ 4 := by
  cases i with
  | nop => exact Nat.zero_le 4
  | init => exact Nat.zero_le 4
  | update bytes => simpa [Instr.wellFormed, Instr.payload] using h
  | finalize => exact Nat.zero_le 4

/-- Settles O2: the fields of the encoded word are the instruction's, and its lanes hold the bytes that were packed. -/
theorem decodeOfEncode : Obligations.DecodeOfEncode := by
  unfold Obligations.DecodeOfEncode
  intro i hwf
  obtain ⟨hop, hrsv, hnb, hdata⟩ := fields_encode i hwf
  refine decode_of_fields hop hrsv hnb ?_
  rw [carriedBytes, hnb, hdata, take_lanes_packLanes (payload_length_le_of_wellFormed hwf)]

/-! ### Illegal words -/

/-- Settles O4, by what the decoder answers: each of the four answers rules out the conditions of the others. -/
theorem illegalWordsByPriority : Obligations.IllegalWordsByPriority := by
  unfold Obligations.IllegalWordsByPriority
  intro w
  rw [← opField_toNat, ← rsvField_toNat, ← nbField_toNat]
  rcases decode_cases w with ⟨hop, hw⟩ | ⟨hop, hbits, hw⟩ | ⟨hop, hrsv, hnb, hw⟩ | ⟨i, hop, hrsv, hnb, hbytes, hw⟩ <;>
    simp only [hw, reduceCtorEq, true_iff, false_iff, Except.error.injEq]
  · exact ⟨hop, by omega, by omega⟩
  · exact ⟨by omega, ⟨hop, by bv_omega⟩, by bv_omega⟩
  · exact ⟨by bv_omega, by bv_omega, by bv_omega⟩
  · have hlt : (opField w).toNat < 4 := hop ▸ opcode_toNat_lt i
    have hle : (nbField w).toNat ≤ 4 := nbField_le_of_length (by rw [hnb, hbytes])
    have hnone : opField w ≠ 2 → (nbField w).toNat = 0 := fun h => by
      rw [hnb, payload_eq_nil_of_opcode_ne (hop ▸ h)]; rfl
    exact ⟨by omega, by bv_omega, by omega⟩

/-! ### Words by match and mask -/

/-- Under a mask of all bits from `n` on, a word shows its bits from `n` on. -/
theorem and_allOnes_shiftLeft_eq_iff (w c : Word64) (n : Nat) :
    w &&& (BitVec.allOnes 64 <<< n) = c ↔ w.toNat / 2 ^ n * 2 ^ n = c.toNat := by
  have hlt : w.toNat / 2 ^ n * 2 ^ n < 2 ^ 64 := Nat.lt_of_le_of_lt (Nat.div_mul_le_self ..) w.isLt
  rw [← BitVec.shiftLeft_ushiftRight, ← BitVec.toNat_inj, BitVec.toNat_shiftLeft, BitVec.toNat_ushiftRight,
    Nat.shiftRight_eq_div_pow, Nat.shiftLeft_eq, Nat.mod_eq_of_lt hlt]

/-- A word is a command with no operand exactly when its upper half is the command's opcode followed by zeros. -/
theorem decode_eq_ok_iff_upper {i : Instr} (hi : i.payload = []) (w : Word64) :
    decode w = .ok i ↔ w.toNat / 2 ^ 32 = i.opcode.toNat * 2 ^ 28 := by
  have fields : opField w = i.opcode ∧ rsvField w = 0 ∧ (nbField w).toNat = 0 ↔
      w.toNat / 2 ^ 32 = i.opcode.toNat * 2 ^ 28 := by
    rw [opField_eq_iff, rsvField_eq_zero_iff, nbField_toNat]
    omega
  rw [← fields, decode_eq_ok_iff, hi]
  refine ⟨fun ⟨hop, hrsv, hnb, _⟩ => ⟨hop, hrsv, hnb⟩, fun ⟨hop, hrsv, hnb⟩ => ⟨hop, hrsv, hnb, ?_⟩⟩
  exact carriedBytes_of_nb_zero (BitVec.eq_of_toNat_eq hnb)

/-- Match and mask of a command with no operand (30_encoding.md R56). -/
theorem decode_eq_ok_iff_mask {i : Instr} (hi : i.payload = []) (w m : Word64)
    (hm : m.toNat = i.opcode.toNat * 2 ^ 60) :
    decode w = .ok i ↔ w &&& 0xFFFFFFFF00000000 = m := by
  have mask : w &&& 0xFFFFFFFF00000000 = m ↔ w.toNat / 2 ^ 32 * 2 ^ 32 = m.toNat :=
    and_allOnes_shiftLeft_eq_iff w m 32
  rw [decode_eq_ok_iff_upper hi, mask, hm]
  omega

/-- The words of an UPDATE (30_encoding.md R56). -/
theorem decode_eq_update_iff (w : Word64) (bytes : List Byte) :
    decode w = .ok (.update bytes) ↔
      w &&& 0xFFFFFFF800000000 = 0x2000000000000000 ∧ (nbField w).toNat ≤ 4 ∧ bytes = carriedBytes w := by
  have mask : w &&& 0xFFFFFFF800000000 = 0x2000000000000000 ↔ w.toNat / 2 ^ 35 * 2 ^ 35 = 2 ^ 61 :=
    and_allOnes_shiftLeft_eq_iff w 0x2000000000000000 35
  have fields : opField w = 2 ∧ rsvField w = 0 ↔ w.toNat / 2 ^ 35 * 2 ^ 35 = 2 ^ 61 := by
    rw [opField_eq_iff, rsvField_eq_zero_iff, show (2 : BitVec 4).toNat = 2 from rfl]
    omega
  rw [mask, ← fields, decode_eq_ok_iff]
  constructor
  · rintro ⟨hop, hrsv, hnb, hbytes⟩
    exact ⟨⟨hop, hrsv⟩, nbField_le_of_length (by rw [hnb, hbytes]), hbytes.symm⟩
  · rintro ⟨⟨hop, hrsv⟩, hle, rfl⟩
    exact ⟨hop, hrsv, by rw [Instr.payload, carriedBytes_length, Nat.min_eq_left hle], rfl⟩

/-- Settles O3, by the match and mask of each command; lane `k` is a byte of the word's number. -/
theorem decodeByMatchAndMask : Obligations.DecodeByMatchAndMask := by
  unfold Obligations.DecodeByMatchAndMask
  intro w
  refine ⟨decode_eq_ok_iff_mask rfl w _ rfl, decode_eq_ok_iff_mask rfl w _ rfl, decode_eq_ok_iff_mask rfl w _ rfl,
    fun bytes => ?_⟩
  have lane (k : Nat) : w.extractLsb' (24 - 8 * k) 8 = BitVec.ofNat 8 (w.toNat / 2 ^ (24 - 8 * k)) := by
    rw [BitVec.extractLsb', Nat.shiftRight_eq_div_pow]
  simp only [decode_eq_update_iff, carriedBytes_eq_map, lane, nbField_toNat]
  refine and_congr_right fun _ => and_congr_right fun hle => ?_
  rw [Nat.min_eq_left hle]

/-! ### Ignored bits -/

/-- The decoder reads the fields above DATA, and the carried bytes of an UPDATE. -/
theorem decode_congr {w v : Word64} (hop : opField w = opField v) (hrsv : rsvField w = rsvField v)
    (hnb : nbField w = nbField v) (hbytes : opField w = 2 → carriedBytes w = carriedBytes v) : decode w = decode v := by
  unfold decode
  rw [← hop, ← hrsv, ← hnb]
  by_cases h2 : opField w = 2
  · rw [hbytes h2]
  · simp only [if_neg h2]

theorem extractLsb'_congr {w v : Word64} {start len : Nat}
    (h : ∀ i, i < len → w.getLsbD (start + i) = v.getLsbD (start + i)) :
    w.extractLsb' start len = v.extractLsb' start len := by
  apply BitVec.eq_of_getLsbD_eq
  intro i hi
  rw [BitVec.getLsbD_extractLsb', BitVec.getLsbD_extractLsb', h i hi]

/-- Settles O5: OP, RSV and NB lie in bits 63 to 32, and the lanes an UPDATE carries in the bits that agree too. -/
theorem ignoredBitsDoNotMatter : Obligations.IgnoredBitsDoNotMatter := by
  unfold Obligations.IgnoredBitsDoNotMatter
  intro w v hupper hlanes
  have hnb : nbField w = nbField v := extractLsb'_congr fun i _ => hupper _ (by omega)
  refine decode_congr (extractLsb'_congr fun i _ => hupper _ (by omega))
    (extractLsb'_congr fun i _ => hupper _ (by omega)) hnb fun h2 => ?_
  have hop : w.toNat / 2 ^ 60 = 2 := by rw [← opField_toNat, h2]; rfl
  rw [carriedBytes_eq_map, carriedBytes_eq_map, ← hnb, nbField_toNat]
  refine List.map_congr_left fun k hk => extractLsb'_congr fun i hi => hlanes hop _ ?_ ?_
  · have := List.mem_range.1 hk; omega
  · omega

/-- Settles O1: the decoder run on ten words. -/
theorem sampleWordsDecode : Obligations.SampleWordsDecode := by
  unfold Obligations.SampleWordsDecode
  decide

end Sys2Proof

namespace Sys2Proof.Machine

/-! ### Error entry by an illegal word -/

/-- Error entry between acceptance and release is error entry at the ready port. -/
theorem accept_raiseError_release {s : State} (hp : s.port = .ready) (w : Word64) (c : Cause) :
    ((s.accept w).raiseError c).release = s.raiseError c := by
  rw [State.raiseError, State.raiseError, hp]; rfl

theorem transact_of_error {w : Word64} {e : Illegal} (hw : decode w = .error e) {s : State} (hp : s.port = .ready) :
    transact w s = .next (s.raiseError (causeOfIllegal e)) := by
  rw [transact, completeWord, execWord_of_error hw, onNext_next, accept_raiseError_release hp]

/-- Causes are told apart by their codes (60_exceptions.md R115). -/
theorem Cause.code_injective {c d : Cause} (h : c.code = d.code) : c = d := by
  revert h; cases c <;> cases d <;> decide

/-- An illegal-word cause sets ERR_ILLEGAL and keeps ERR_MISUSE (60_exceptions.md R121). -/
theorem raiseError_causeOfIllegal (s : State) (e : Illegal) :
    s.raiseError (causeOfIllegal e) = { s with
      errIllegal := true, cause := if s.cause = .none then causeOfIllegal e else s.cause
      phase := .error, dv := false } := by
  cases e <;> simp [State.raiseError, causeOfIllegal, Cause.isMisuse, Cause.isIllegal]

/-- Settles O23: the word raises the cause of its reason, and the cause's code tells the reason. -/
theorem illegalWordEntersError : Obligations.IllegalWordEntersError := by
  unfold Obligations.IllegalWordEntersError
  intro s w c hp h
  obtain ⟨e, hw, hc⟩ : ∃ e, decode w = .error e ∧ c = causeOfIllegal e := by
    rcases h with ⟨hw, hc⟩ | ⟨hw, hc⟩ | ⟨hw, hc⟩ <;> exact ⟨_, hw, Cause.code_injective hc⟩
  rw [transact_of_error hw hp, raiseError_causeOfIllegal, ← hc]

/-! ### The expansion of UPDATE_CHUNK -/

/-- Beat `i` is the bytes from `4 * i` on, four at most (30_encoding.md R62). -/
theorem beats_eq_map (bytes : List Byte) :
    beats bytes = (List.range ((bytes.length + 3) / 4)).map fun i => (bytes.drop (4 * i)).take 4 := by
  induction bytes using beats.induct with
  | case1 => rfl
  | case2 => simp [beats]
  | case3 => simp [beats]
  | case4 => simp [beats]
  | case5 b0 b1 b2 b3 rest ih =>
    have count : ((b0 :: b1 :: b2 :: b3 :: rest).length + 3) / 4 = (rest.length + 3) / 4 + 1 := by
      simp only [List.length_cons]; omega
    rw [beats, ih, count, List.range_succ_eq_map, List.map_cons, List.map_map]
    rfl

/-- Settles O43, by the beats of the chunk. -/
theorem updateChunkExpansion : Obligations.UpdateChunkExpansion := by
  unfold Obligations.UpdateChunkExpansion
  refine ⟨rfl, fun bytes hne => ?_⟩
  rw [updateChunk, if_neg hne, beats_eq_map, List.map_map]
  rfl

/-! ### The assembler's lines -/

theorem assembleUpdate_of_legal {bytes : List Nat} (hlen : bytes.length ≤ 4) (hbytes : ∀ b ∈ bytes, b ≤ 255) :
    assembleUpdate bytes = some [encode (.update (bytes.map (BitVec.ofNat 8)))] := by
  rw [assembleUpdate, if_pos ⟨hlen, by simpa using hbytes⟩]

theorem assembleUpdate_eq_none {bytes : List Nat} (h : 4 < bytes.length ∨ ∃ b ∈ bytes, 255 < b) :
    assembleUpdate bytes = none := by
  rw [assembleUpdate, if_neg]
  rintro ⟨hlen, hall⟩
  rcases h with h | ⟨b, hb, h⟩
  · omega
  · have : b ≤ 255 := by simpa using List.all_eq_true.1 hall b hb
    omega

/-- The word of a full beat (30_encoding.md R61). -/
theorem encode_fullBeat (b0 b1 b2 b3 : Byte) :
    encode (.update [b0, b1, b2, b3]) = (0x20000004 : Word) ++ (b0 ++ b1 ++ b2 ++ b3) := by
  have upper : (2 : BitVec 4) ++ (0 : BitVec 25) ++ BitVec.ofNat 3 4 = (0x20000004 : Word) := by decide
  rw [← upper]
  rfl

/-- Settles O49: fixed lines are assembled, and an UPDATE by whether its bytes are legal. -/
theorem assemblerLines : Obligations.AssemblerLines := by
  unfold Obligations.AssemblerLines
  refine ⟨by decide, by decide, by decide, by decide, by decide, fun _ => rfl, fun _ => assembleUpdate_eq_none,
    fun b0 b1 b2 b3 => ?_⟩
  have legal (b : Byte) : b.toNat ≤ 255 := Nat.le_of_lt_succ b.isLt
  rw [assemble, assembleUpdate_of_legal (by simp) (by simp [legal]), ← encode_fullBeat]
  simp

end Sys2Proof.Machine

namespace Sys2Proof.Machine

/-! ### Rotation, shift and sum of words -/

/-- The model's ROTR is Lean's rotation, for the amounts R64 allows. -/
theorem rotr_eq_rotateRight {n : Nat} (hn : n < 32) (x : Word) : rotr n x = x.rotateRight n := by
  rw [rotr, BitVec.rotateRight_def, Nat.mod_eq_of_lt hn]

theorem rotr_getLsbD {n i : Nat} (hn : n < 32) (hi : i < 32) (x : Word) :
    (rotr n x).getLsbD i = x.getLsbD ((i + n) % 32) := by
  rw [rotr_eq_rotateRight hn, BitVec.getLsbD_rotateRight_of_lt hn]
  by_cases h : i < 32 - n
  · rw [decide_eq_true h, cond_true, Nat.mod_eq_of_lt (by omega), Nat.add_comm]
  · have wraps : (i + n) % 32 = i - (32 - n) := by omega
    rw [decide_eq_false h, cond_false, decide_eq_true hi, Bool.true_and, wraps]

theorem shr_getLsbD (n i : Nat) (x : Word) :
    (shr n x).getLsbD i = (decide (i + n < 32) && x.getLsbD (i + n)) := by
  rw [shr, BitVec.getLsbD_ushiftRight, Nat.add_comm n i]
  by_cases h : i + n < 32
  · simp [h]
  · simp [h, BitVec.getLsbD_of_ge x _ (Nat.le_of_not_lt h)]

theorem zeroWord_getLsbD (i : Nat) : (0 : Word).getLsbD i = false := BitVec.getLsbD_zero

theorem onesWord_getLsbD {i : Nat} (hi : i < 32) : (0xFFFFFFFF : Word).getLsbD i = true := by
  rw [show (0xFFFFFFFF : Word) = BitVec.allOnes 32 by decide, BitVec.getLsbD_allOnes, decide_eq_true hi]

/-- Settles O6: a rotation moves bits, so it keeps a word whose bits are all alike. -/
theorem rotateRightMovesBits : Obligations.RotateRightMovesBits := by
  unfold Obligations.RotateRightMovesBits
  intro n _ hn
  refine ⟨fun x => ⟨rfl, fun i hi => rotr_getLsbD hn hi x⟩, BitVec.eq_of_getLsbD_eq fun i hi => ?_,
    BitVec.eq_of_getLsbD_eq fun i hi => ?_, by decide⟩
  · rw [rotr_getLsbD hn hi, zeroWord_getLsbD, zeroWord_getLsbD]
  · rw [rotr_getLsbD hn hi, onesWord_getLsbD hi, onesWord_getLsbD (Nat.mod_lt _ (by decide))]

/-- Settles O7: the bits of the shift, and the sum as a number. -/
theorem shiftAndSumWords : Obligations.ShiftAndSumWords := by
  unfold Obligations.ShiftAndSumWords
  exact ⟨fun n x => ⟨rfl, fun i => shr_getLsbD n i x⟩, by decide, by decide, by decide, by decide,
    fun x y => BitVec.toNat_add x y, by decide, by decide, by decide⟩

/-! ### Choice and majority -/

theorem ch_getLsbD (x y z : Word) {i : Nat} (hi : i < 32) :
    (ch x y z).getLsbD i = if x.getLsbD i then y.getLsbD i else z.getLsbD i := by
  rw [ch, BitVec.getLsbD_xor, BitVec.getLsbD_and, BitVec.getLsbD_and, BitVec.getLsbD_not, decide_eq_true hi]
  cases x.getLsbD i <;> simp

theorem maj_getLsbD (x y z : Word) (i : Nat) :
    (maj x y z).getLsbD i = if x.getLsbD i = y.getLsbD i then x.getLsbD i else z.getLsbD i := by
  rw [maj, BitVec.getLsbD_xor, BitVec.getLsbD_xor, BitVec.getLsbD_and, BitVec.getLsbD_and, BitVec.getLsbD_and]
  cases x.getLsbD i <;> cases y.getLsbD i <;> simp

/-- Settles O9: Ch and Maj act on each bit alone, and the corner cases are their bit laws at a fixed word. -/
theorem choiceAndMajorityByBit : Obligations.ChoiceAndMajorityByBit := by
  unfold Obligations.ChoiceAndMajorityByBit
  intro x y z
  refine ⟨rfl, rfl, fun i hi => ⟨ch_getLsbD x y z hi, maj_getLsbD x y z i⟩,
    BitVec.eq_of_getLsbD_eq fun i hi => ?_, BitVec.eq_of_getLsbD_eq fun i hi => ?_,
    BitVec.eq_of_getLsbD_eq fun i _ => ?_, BitVec.eq_of_getLsbD_eq fun i hi => ?_, by decide, by decide⟩
  · rw [ch_getLsbD _ _ _ hi, if_pos (onesWord_getLsbD hi)]
  · rw [ch_getLsbD _ _ _ hi, zeroWord_getLsbD, if_neg (by decide)]
  · rw [maj_getLsbD, if_pos rfl]
  · rw [maj_getLsbD, onesWord_getLsbD hi, zeroWord_getLsbD, if_neg (by decide)]

/-! ### The sigma functions -/

/-- Settles O10: every amount of R69 to R72 is below 32, where ROTR is Lean's rotation. -/
theorem sigmaFunctionsByRotation : Obligations.SigmaFunctionsByRotation := by
  unfold Obligations.SigmaFunctionsByRotation
  refine ⟨fun x => ⟨?_, ?_, ?_, ?_⟩, by decide⟩
  · simp only [bigSigma0, rotr_eq_rotateRight, Nat.reduceLT]
  · simp only [bigSigma1, rotr_eq_rotateRight, Nat.reduceLT]
  · simp only [smallSigma0, shr, rotr_eq_rotateRight, Nat.reduceLT]
  · simp only [smallSigma1, shr, rotr_eq_rotateRight, Nat.reduceLT]

/-! ### The constant tables as roots -/

/-- The primes of R73 and R74, in order. -/
def primesTo311 : List Nat := [
  2, 3, 5, 7, 11, 13, 17, 19, 23, 29, 31, 37, 41, 43, 47, 53,
  59, 61, 67, 71, 73, 79, 83, 89, 97, 101, 103, 107, 109, 113, 127, 131,
  137, 139, 149, 151, 157, 163, 167, 173, 179, 181, 191, 193, 197, 199, 211, 223,
  227, 229, 233, 239, 241, 251, 257, 263, 269, 271, 277, 281, 283, 293, 307, 311]

theorem filter_prime_eq_primesTo311 :
    (List.range 312).filter (fun n => 2 ≤ n && (List.range n).all fun d => d < 2 || n % d != 0) = primesTo311 := by
  decide +kernel

/-- `q` is the integer part of the root and `w` its first 32 fractional bits, so `q * 2^32 + w` is the root times `2^32`. -/
theorem exists_root_of_integerPart {e N q : Nat} {w : Word} (low : (q * 2 ^ 32 + w.toNat) ^ e ≤ N)
    (high : N < (q * 2 ^ 32 + w.toNat + 1) ^ e) : ∃ r : Nat, r ^ e ≤ N ∧ N < (r + 1) ^ e ∧ w.toNat = r % 2 ^ 32 :=
  ⟨q * 2 ^ 32 + w.toNat, low, high, by omega⟩

/-- The cube root of a prime below 312 is below 7 (R73). -/
theorem roundConstants_cubeRoot : ∀ t : Fin 64, ∃ q < 7,
    (q * 2 ^ 32 + (roundConstants.getD t.val 0).toNat) ^ 3 ≤ primesTo311.getD t.val 0 * 2 ^ 96 ∧
      primesTo311.getD t.val 0 * 2 ^ 96 < (q * 2 ^ 32 + (roundConstants.getD t.val 0).toNat + 1) ^ 3 := by
  decide

/-- The square root of a prime up to 19 is below 5 (R74). -/
theorem initialHash_squareRoot : ∀ i : Fin 8, ∃ q < 5,
    (q * 2 ^ 32 + (initialHash[i]).toNat) ^ 2 ≤ primesTo311.getD i.val 0 * 2 ^ 64 ∧
      primesTo311.getD i.val 0 * 2 ^ 64 < (q * 2 ^ 32 + (initialHash[i]).toNat + 1) ^ 2 := by
  decide

/-- Settles O8: the constant with the integer part of the root before it is the root times `2^32`, rounded down. -/
theorem constantsAreRootsOfPrimes : Obligations.ConstantsAreRootsOfPrimes := by
  unfold Obligations.ConstantsAreRootsOfPrimes
  refine ⟨roundConstants_length, fun primes hprimes => ?_⟩
  rw [filter_prime_eq_primesTo311] at hprimes
  subst hprimes
  refine ⟨fun t => ?_, fun i => ?_⟩
  · obtain ⟨q, -, low, high⟩ := roundConstants_cubeRoot t
    exact exists_root_of_integerPart low high
  · obtain ⟨q, -, low, high⟩ := initialHash_squareRoot i
    exact exists_root_of_integerPart low high

end Sys2Proof.Machine

namespace Sys2Proof.Machine

/-! ### The message schedule -/

theorem blockWords_getD (b : Block) (t : Fin 16) :
    (blockWords b).getD t.val 0 = b[4 * t.val] ++ b[4 * t.val + 1] ++ b[4 * t.val + 2] ++ b[4 * t.val + 3] := by
  rw [← be32_eq_append, ← blockWord]
  simp [blockWords, List.getD_eq_getElem?_getD]

/-- The word an extension appends. -/
theorem extendSchedule_getD_length (ws : List Word) (t : Nat) :
    (extendSchedule ws t).getD ws.length 0 =
      smallSigma1 (ws.getD (t - 2) 0) + ws.getD (t - 7) 0 + smallSigma0 (ws.getD (t - 15) 0) + ws.getD (t - 16) 0 := by
  rw [extendSchedule, List.getD_append_right _ _ _ _ le_rfl, Nat.sub_self, List.getD_cons_zero]

/-- The schedule is cut at its word `t`: the words before it, its extension step, and the steps after it. -/
theorem exists_schedule_eq_foldl_extendSchedule (b : Block) {t : Nat} (h16 : 16 ≤ t) (h64 : t < 64) :
    ∃ (ws : List Word) (later : List Nat), ws.length = t ∧
      schedule b = later.foldl extendSchedule (extendSchedule ws t) := by
  have steps : List.range' 16 48 = List.range' 16 (t - 16) ++ t :: List.range' (t + 1) (63 - t) := by
    rw [← List.range'_succ, show 48 = (t - 16) + (63 - t + 1) by omega, ← List.range'_append_1,
      Nat.add_sub_cancel' h16]
  refine ⟨(List.range' 16 (t - 16)).foldl extendSchedule (blockWords b), List.range' (t + 1) (63 - t), ?_, ?_⟩
  · rw [foldl_extendSchedule_length, blockWords_length, List.length_range', Nat.add_sub_cancel' h16]
  · rw [schedule, steps, List.foldl_append, List.foldl_cons]

theorem schedule_getD_recurrence (b : Block) {t : Nat} (h16 : 16 ≤ t) (h64 : t < 64) :
    (schedule b).getD t 0 =
      smallSigma1 ((schedule b).getD (t - 2) 0) + (schedule b).getD (t - 7) 0 +
        smallSigma0 ((schedule b).getD (t - 15) 0) + (schedule b).getD (t - 16) 0 := by
  obtain ⟨ws, later, hlen, hcut⟩ := exists_schedule_eq_foldl_extendSchedule b h16 h64
  have earlier {k : Nat} (hk : k < t) : (schedule b).getD k 0 = ws.getD k 0 := by
    rw [hcut, foldl_extendSchedule_getD _ _ _ (by rw [extendSchedule_length]; omega),
      extendSchedule_getD_of_lt _ _ _ (hlen ▸ hk)]
  have appended : (schedule b).getD t 0 = (extendSchedule ws t).getD ws.length 0 := by
    rw [hcut, hlen, foldl_extendSchedule_getD _ _ _ (by rw [extendSchedule_length]; omega)]
  rw [appended, extendSchedule_getD_length, earlier (k := t - 2) (by omega), earlier (k := t - 7) (by omega),
    earlier (k := t - 15) (by omega), earlier (k := t - 16) (by omega)]

/-- Settles O11: later extension steps keep the block's words, and each word of the recurrence was appended from words
that the steps after it keep. -/
theorem scheduleFollowsRecurrence : Obligations.ScheduleFollowsRecurrence := by
  unfold Obligations.ScheduleFollowsRecurrence
  intro b
  refine ⟨schedule_length b, fun t => ?_, fun t => schedule_getD_recurrence b⟩
  rw [schedule, foldl_extendSchedule_getD _ _ _ (by rw [blockWords_length]; exact t.isLt), blockWords_getD]

end Sys2Proof.Machine

namespace Sys2Proof.Machine

/-! ### The rounds of a compression -/

/-- The pairs `(K[t], W[t])` of a block's 64 rounds, in order (42_compression.md R87). -/
def roundInputs (b : Block) : List (Word × Word) := roundConstants.zip (schedule b)

theorem roundInputs_length (b : Block) : (roundInputs b).length = 64 := by
  rw [roundInputs, List.length_zip, roundConstants_length, schedule_length, Nat.min_self]

theorem roundInputs_getElem (b : Block) {t : Nat} (ht : t < (roundInputs b).length) :
    (roundInputs b)[t] = (roundConstants.getD t 0, (schedule b).getD t 0) := by
  have h64 : t < 64 := roundInputs_length b ▸ ht
  rw [List.getD_eq_getElem _ _ (roundConstants_length.symm ▸ h64),
    List.getD_eq_getElem _ _ ((schedule_length b).symm ▸ h64)]
  exact List.getElem_zip

/-- The working variables of `COMPRESS(b)` before round `t`: loaded from `hs`, then through rounds `0` to `t - 1`. -/
def workingBefore (hs : Hash) (b : Block) (t : Nat) : Working :=
  runRounds ((roundInputs b).take t) (loadWorking hs)

theorem workingBefore_zero (hs : Hash) (b : Block) : workingBefore hs b 0 = loadWorking hs := by
  rw [workingBefore, List.take_zero, runRounds, List.foldl_nil]

theorem workingBefore_succ (hs : Hash) (b : Block) {t : Nat} (ht : t < 64) :
    workingBefore hs b (t + 1) = round (workingBefore hs b t) (roundConstants.getD t 0) ((schedule b).getD t 0) := by
  have inRange : t < (roundInputs b).length := (roundInputs_length b).symm ▸ ht
  rw [workingBefore, List.take_succ_eq_append_getElem inRange, runRounds_concat, roundInputs_getElem b inRange,
    ← workingBefore]

theorem compress_eq_feedForward (hs : Hash) (b : Block) :
    compress hs b = feedForward hs (workingBefore hs b 64) := by
  rw [workingBefore, List.take_of_length_le (roundInputs_length b).le, roundInputs, compress]

/-- Settles O12: the variables before round `t` are the witness, and those before round 64 are added back to H. -/
theorem compressRunsSixtyFourRounds : Obligations.CompressRunsSixtyFourRounds := by
  unfold Obligations.CompressRunsSixtyFourRounds
  refine ⟨by decide, by rintro _ rfl; decide, by decide, fun hs b => ⟨workingBefore hs b, ?load, ?rounds, ?sums⟩⟩
  case load => exact workingBefore_zero hs b
  case rounds => exact fun t ht => ⟨_, _, rfl, rfl, workingBefore_succ hs b ht⟩
  case sums =>
    rw [compress_eq_feedForward]
    generalize workingBefore hs b 64 = last
    exact ⟨rfl, rfl, rfl, rfl, rfl, rfl, rfl, rfl⟩

end Sys2Proof.Machine

namespace Sys2Proof.Machine

/-! ### The invariant through the commands -/

theorem appendByte_pend (s : State) (b : Byte) : (s.appendByte b).pend.val = (s.pend.val + 1) % 64 := by
  rcases appendByte_cases s b with ⟨hlt, h⟩ | ⟨hfull, h⟩ <;> rw [h, State.setPend_pend]
  · rw [Fin.val_add_one_of_lt' hlt, Nat.mod_eq_of_lt hlt]
  · rw [hfull]; rfl

theorem foldl_appendByte_pend (bytes : List Byte) (s : State) :
    (bytes.foldl State.appendByte s).pend.val = (s.pend.val + bytes.length) % 64 := by
  induction bytes generalizing s with
  | nil => exact (Nat.mod_eq_of_lt s.pend.isLt).symm
  | cons b bytes ih => rw [List.foldl_cons, ih, appendByte_pend, List.length_cons]; omega

/-- PEND after a legal UPDATE (43_accumulator.md R94, R97). -/
theorem absorb_pend (s : State) (bytes : List Byte) :
    (s.absorb bytes).pend.val = (s.pend.val + bytes.length) % 64 :=
  foldl_appendByte_pend bytes s

theorem absorb_len (s : State) (bytes : List Byte) :
    (s.absorb bytes).len = s.len + BitVec.ofNat 64 bytes.length := by
  rw [absorb_frame]

@[simp] theorem State.absorb_phase (s : State) (bytes : List Byte) : (s.absorb bytes).phase = .accum := rfl

@[simp] theorem State.closeSession_phase (s : State) : s.closeSession.phase = .final := rfl
@[simp] theorem State.closeSession_pend (s : State) : s.closeSession.pend = 0 := rfl

/-- Outside reset no clause of the invariant reads the port or the model's own fields. -/
theorem State.Inv.withPort {s : State} (h : s.Inv) {p : CmdPort} (hp : p ≠ .inReset) : ({ s with port := p } : State).Inv :=
  { h with resetHeld := fun hr => absurd hr hp }

theorem State.Inv.setHost {s : State} (h : s.Inv) (hs : List HostInput) : (s.setHost hs).Inv := { h with }

theorem openSession_inv {s : State} (h : s.Inv) (hp : s.port ≠ .inReset) : s.openSession.Inv where
  openCount _ := rfl
  freshSession _ := ⟨rfl, rfl, rfl⟩
  finalSession := nofun
  digestValid := by simp
  causeNone := h.causeNone
  causeClass := h.causeClass
  errorRecorded := nofun
  idleReset := nofun
  resetHeld hr := absurd hr hp

/-- The sum of LEN wraps at a multiple of 64, so PEND stays LEN modulo 64 (43_accumulator.md R97). -/
theorem absorb_inv {s : State} (h : s.Inv) (hp : s.port ≠ .inReset) (ho : s.phase.isOpen = true) (bytes : List Byte) :
    (s.absorb bytes).Inv where
  openCount _ := by
    have := h.openCount ho
    rw [absorb_pend, absorb_len, BitVec.toNat_add, BitVec.toNat_ofNat]
    omega
  freshSession := nofun
  finalSession := nofun
  digestValid := by simp [h.dv_of_isOpen ho]
  causeNone := by simpa [State.faulted] using h.causeNone
  causeClass := by simpa using h.causeClass
  errorRecorded := nofun
  idleReset := nofun
  resetHeld hr := absurd (by simpa using hr) hp

theorem closeSession_inv {s : State} (h : s.Inv) (hp : s.port ≠ .inReset) : s.closeSession.Inv where
  openCount := nofun
  freshSession := nofun
  finalSession _ := ⟨rfl, rfl⟩
  digestValid := by simp
  causeNone := by simpa [State.faulted] using h.causeNone
  causeClass := by simpa using h.causeClass
  errorRecorded := nofun
  idleReset := nofun
  resetHeld hr := absurd (by simpa using hr) hp

/-- A cause other than NONE belongs to one of the two classes (60_exceptions.md R114). -/
theorem Cause.isMisuse_or_isIllegal {c : Cause} (hc : c ≠ .none) : (c.isMisuse || c.isIllegal) = true := by
  cases c with
  | none => exact absurd rfl hc
  | _ => rfl

theorem raiseError_faulted (s : State) {c : Cause} (hc : c ≠ .none) : (s.raiseError c).faulted = true := by
  have := Cause.isMisuse_or_isIllegal hc
  simp only [Bool.or_eq_true] at this
  simp only [State.faulted, State.raiseError_errMisuse, State.raiseError_errIllegal, Bool.or_eq_true]
  tauto

theorem raiseError_cause_ne_none (s : State) {c : Cause} (hc : c ≠ .none) : (s.raiseError c).cause ≠ .none := by
  rw [State.raiseError_cause]
  split
  · exact hc
  · assumption

/-- Error entry records its cause and the cause's class together (60_exceptions.md R121). -/
theorem raiseError_inv {s : State} (h : s.Inv) (hp : s.port ≠ .inReset) {c : Cause} (hc : c ≠ .none) :
    (s.raiseError c).Inv where
  openCount := nofun
  freshSession := nofun
  finalSession := nofun
  digestValid := by simp
  causeNone := by simp only [raiseError_cause_ne_none s hc, raiseError_faulted s hc, Bool.true_eq_false]
  causeClass := by
    obtain ⟨hmisuse, hillegal⟩ := h.causeClass
    rw [State.raiseError_cause, State.raiseError_errMisuse, State.raiseError_errIllegal, Bool.or_eq_true, Bool.or_eq_true]
    split
    · exact ⟨.inr, .inr⟩
    · exact ⟨fun hm => .inl (hmisuse hm), fun hi => .inl (hillegal hi)⟩
  errorRecorded _ := raiseError_faulted s hc
  idleReset := nofun
  resetHeld hr := absurd hr hp

theorem updateMisuse_ne_none (p : Phase) : updateMisuse p ≠ .none := by
  unfold updateMisuse; split <;> nofun

theorem finalizeMisuse_ne_none (p : Phase) : finalizeMisuse p ≠ .none := by
  unfold finalizeMisuse; split <;> nofun

theorem causeOfIllegal_ne_none (e : Illegal) : causeOfIllegal e ≠ .none := by cases e <;> nofun

theorem exec_inv {s t : State} {i : Instr} (h : s.Inv) (hp : s.port ≠ .inReset) (hexec : exec i s = .next t) : t.Inv := by
  rw [exec_eq] at hexec
  cases hexec
  cases i with
  | nop => exact h
  | init => exact openSession_inv h hp
  | update bytes =>
    dsimp only; split
    · next ho => exact absorb_inv h hp ho bytes
    · exact raiseError_inv h hp (updateMisuse_ne_none _)
  | finalize =>
    dsimp only; split
    · exact closeSession_inv h hp
    · exact raiseError_inv h hp (finalizeMisuse_ne_none _)

/-! ### The invariant through a step -/

theorem completeWord_inv {s t : State} {w : Word64} (h : s.Inv) (hp : s.port ≠ .inReset)
    (hw : completeWord w s = .next t) : t.Inv := by
  obtain ⟨u, hu, rfl⟩ := completeWord_next hw
  refine State.Inv.withPort ?_ nofun
  rcases execWord_cases hu with ⟨e, -, rfl⟩ | ⟨i, -, hexec⟩
  · exact raiseError_inv h hp (causeOfIllegal_ne_none e)
  · exact exec_inv h hp hexec

theorem settle_inv {s t : State} (h : s.Inv) (hs : settle s = .next t) : t.Inv := by
  rcases settle_cases hs with ⟨-, rfl⟩ | ⟨w, hp, hw⟩ | ⟨-, rfl⟩
  · exact h
  · exact completeWord_inv h (by rw [hp]; nofun) hw
  · exact h.withPort nofun

theorem assertReset_inv (s : State) : s.assertReset.Inv :=
  { resetHasInvariant with resetHeld := fun _ => rfl }

/-- Settles O40: whatever the step did, a command ran outside reset, where each of its writes keeps the invariant, or only the
port and the host's list moved, or every field took its reset value. -/
theorem everyStepKeepsInvariant : Obligations.EveryStepKeepsInvariant := by
  unfold Obligations.EveryStepKeepsInvariant
  intro s t h hstep
  rcases step_cases hstep with ⟨hs, -⟩ | ⟨rest, -, hs⟩ | ⟨rest, -, rfl⟩ | ⟨w, rest, -, -, hw⟩ | ⟨w, rest, -, -, rfl⟩
  · exact settle_inv h hs
  · exact settle_inv (h.setHost rest) hs
  · exact assertReset_inv _
  · exact completeWord_inv (s := (s.setHost rest).accept w) ((h.setHost rest).withPort nofun) nofun hw
  · exact (h.setHost rest).withPort nofun

end Sys2Proof.Machine

namespace Sys2Proof.Machine

/-! ### NOP and INIT -/

/-- Acceptance and release leave a state whose port was ready as it was. -/
theorem accept_release {s : State} (hp : s.port = .ready) (w : Word64) : (s.accept w).release = s := by
  rw [State.accept, State.release, ← hp]

theorem eq_nop_of_opcode {i : Instr} (h : i.opcode = 0) : i = .nop := by
  cases i with
  | nop => rfl
  | init => cases h
  | update bytes => cases h
  | finalize => cases h

/-- A word of opcode 0 that is not NOP has a reserved bit set (30_encoding.md R52, R53). -/
theorem decode_of_opcode_zero {w : Word64} (hop : opField w = 0) (hnop : decode w ≠ .ok .nop) :
    decode w = .error .reservedBits := by
  rcases decode_cases w with ⟨h4, -⟩ | ⟨-, -, hw⟩ | ⟨h2, -⟩ | ⟨i, hi, -, -, -, hw⟩
  · simp [hop] at h4
  · exact hw
  · simp [hop] at h2
  · exact absurd (eq_nop_of_opcode (hi.symm.trans hop) ▸ hw) hnop

/-- Settles O13: NOP's words decode to NOP, and between acceptance and release it writes nothing. -/
theorem nopHasNoEffect : Obligations.NopHasNoEffect := by
  unfold Obligations.NopHasNoEffect
  have nopWord (w : Word64) : decode w = .ok .nop ↔ w &&& 0xFFFFFFFF00000000 = 0x0000000000000000 :=
    decode_eq_ok_iff_mask rfl w _ rfl
  refine fun s => ⟨rfl, fun hp w hw => ?_, fun w hop hw => ?_⟩
  · rw [transact_of_ok ((nopWord w).2 hw)]
    exact congrArg Host.Outcome.next (accept_release hp w)
  · exact decode_of_opcode_zero ((opField_eq_iff w 0).2 hop) (mt (nopWord w).1 hw)

/-- Settles O14: INIT's words decode to INIT, whose writes are the same whatever the port holds. -/
theorem initOpensFreshSession : Obligations.InitOpensFreshSession := by
  unfold Obligations.InitOpensFreshSession
  rintro s t rfl
  refine ⟨rfl, rfl, fun hp w hw => ?_⟩
  have initWord : decode w = .ok .init := (decode_eq_ok_iff_mask rfl w _ rfl).2 hw
  rw [transact_of_ok initWord]
  exact congrArg (fun u => Host.Outcome.next u.openSession) (accept_release hp w)

/-! ### UPDATE in an open session -/

theorem exec_update_of_isOpen {s : State} (ho : s.phase.isOpen = true) (bytes : List Byte) :
    exec (.update bytes) s = .next (s.absorb bytes) := by
  rw [exec_eq]; exact congrArg Host.Outcome.next (if_pos ho)

theorem exec_update_of_not_isOpen {s : State} (ho : s.phase.isOpen = false) (bytes : List Byte) :
    exec (.update bytes) s = .next (s.raiseError (updateMisuse s.phase)) := by
  rw [exec_eq]; exact congrArg Host.Outcome.next (if_neg (by simp [ho]))

theorem exec_finalize_of_isOpen {s : State} (ho : s.phase.isOpen = true) : exec .finalize s = .next s.closeSession := by
  rw [exec_eq]; exact congrArg Host.Outcome.next (if_pos ho)

theorem absorb_nil (s : State) : s.absorb [] = s.setPhase .accum := by
  simp [State.absorb, State.addLen]

/-- Settles O17: a beat of no byte writes PHASE only, and the misuse of an UPDATE is that of its phase. -/
theorem updateOfNoByte : Obligations.UpdateOfNoByte := by
  unfold Obligations.UpdateOfNoByte
  intro s
  refine ⟨fun hp => ?_, fun hp => ?_, fun hp => ?_⟩
  · rw [exec_update_of_isOpen ((isOpen_iff _).2 hp), absorb_nil]; rfl
  · rw [exec_update_of_not_isOpen (by rw [hp]; rfl), hp]; rfl
  · rcases hp with hp | hp <;> rw [exec_update_of_not_isOpen (by rw [hp]; rfl), hp] <;> rfl

/-- The buffer with the bytes written from position `p` on, as far as it reaches. -/
def overlay (buf : Vector Byte 64) (p : Nat) (bytes : List Byte) : Vector Byte 64 :=
  Vector.ofFn fun j => if p ≤ j.val ∧ j.val < p + bytes.length then bytes.getD (j.val - p) 0 else buf[j]

theorem overlay_getElem (buf : Vector Byte 64) (p : Nat) (bytes : List Byte) {j : Nat} (hj : j < 64) :
    (overlay buf p bytes)[j] = if p ≤ j ∧ j < p + bytes.length then bytes.getD (j - p) 0 else buf[j] := by
  simp [overlay]

theorem overlay_nil (buf : Vector Byte 64) (p : Nat) : overlay buf p [] = buf :=
  Vector.ext fun j hj => by rw [overlay_getElem _ _ _ hj, if_neg (by rw [List.length_nil]; omega)]

theorem overlay_of_le (buf : Vector Byte 64) {p : Nat} (hp : 64 ≤ p) (bytes : List Byte) : overlay buf p bytes = buf :=
  Vector.ext fun j hj => by rw [overlay_getElem _ _ _ hj, if_neg (by omega)]

/-- The bytes are written one after the other. -/
theorem overlay_set_succ (buf : Vector Byte 64) (p : Fin 64) (b : Byte) (bytes : List Byte) :
    overlay (buf.set p.val b p.isLt) (p.val + 1) bytes = overlay buf p.val (b :: bytes) := by
  refine Vector.ext fun j hj => ?_
  rw [overlay_getElem _ _ _ hj, overlay_getElem _ _ _ hj, Vector.getElem_set, List.length_cons]
  rcases Nat.lt_trichotomy j p.val with h | h | h
  · rw [if_neg (by omega), if_neg (by omega), if_neg (by omega)]
  · subst h; simp
  · have inside : (p.val + 1 ≤ j ∧ j < p.val + 1 + bytes.length) ↔
        p.val ≤ j ∧ j < p.val + (bytes.length + 1) := by omega
    rw [if_neg (show ¬ p.val = j by omega), show j - p.val = j - (p.val + 1) + 1 by omega, List.getD_cons_succ]
    simp only [inside]

/-- Bytes that do not fill the block are written after the pending ones (43_accumulator.md R94). -/
theorem foldl_appendByte_of_lt {s : State} {bytes : List Byte} (h : s.pend.val + bytes.length < 64) :
    bytes.foldl State.appendByte s =
      { s with buf := overlay s.buf s.pend.val bytes, pend := ⟨s.pend.val + bytes.length, h⟩ } := by
  induction bytes generalizing s with
  | nil => rw [overlay_nil]; rfl
  | cons b bytes ih =>
    rw [List.length_cons] at h
    rcases appendByte_cases s b with ⟨hlt, heq⟩ | ⟨hfull, -⟩
    · have hsucc : (s.pend + 1).val = s.pend.val + 1 := Fin.val_add_one_of_lt' hlt
      rw [List.foldl_cons, heq, ih (by rw [State.setPend_pend, hsucc]; omega)]
      simp only [State.setPend_pend, State.setPend_buf, State.bufWrite_buf, hsucc, overlay_set_succ, List.length_cons,
        Nat.add_right_comm _ 1, ← Nat.add_assoc]
      rfl
    · omega

/-- Bytes that fill the block: it is compressed once, and the bytes after it are written at the front (43_accumulator.md
R94, R95). -/
theorem foldl_appendByte_of_fills {s : State} {bytes : List Byte} (hfill : 64 ≤ s.pend.val + bytes.length)
    (hone : s.pend.val + bytes.length - 64 < 64) :
    bytes.foldl State.appendByte s =
      { s with
        h := compress s.h (overlay s.buf s.pend.val bytes)
        buf := overlay (overlay s.buf s.pend.val bytes) 0 (bytes.drop (64 - s.pend.val))
        pend := ⟨s.pend.val + bytes.length - 64, hone⟩ } := by
  induction bytes generalizing s with
  | nil => rw [List.length_nil] at hfill; omega
  | cons b bytes ih =>
    rw [List.length_cons] at hfill hone
    rcases appendByte_cases s b with ⟨hlt, heq⟩ | ⟨hfull, heq⟩
    · have hsucc : (s.pend + 1).val = s.pend.val + 1 := Fin.val_add_one_of_lt' hlt
      have hdrop : (b :: bytes).drop (64 - s.pend.val) = bytes.drop (64 - (s.pend.val + 1)) := by
        rw [show 64 - s.pend.val = 64 - (s.pend.val + 1) + 1 by omega, List.drop_succ_cons]
      rw [List.foldl_cons, heq, ih (by rw [State.setPend_pend, hsucc]; omega) (by rw [State.setPend_pend, hsucc]; omega)]
      simp only [State.setPend_pend, State.setPend_buf, State.setPend_h, State.bufWrite_h, State.bufWrite_buf, hsucc,
        overlay_set_succ, hdrop, List.length_cons, Nat.add_right_comm _ 1, ← Nat.add_assoc]
      rfl
    · have hblock : (s.bufWrite s.pend b).buf = overlay s.buf s.pend.val (b :: bytes) := by
        rw [State.bufWrite_buf, ← overlay_set_succ, overlay_of_le _ (by omega)]
      have hpend : s.pend.val + (b :: bytes).length - 64 = bytes.length := by rw [List.length_cons]; omega
      have hdrop : (b :: bytes).drop (64 - s.pend.val) = bytes := by rw [hfull]; rfl
      rw [List.foldl_cons, heq, foldl_appendByte_of_lt (by simp; omega)]
      simp only [State.setPend_pend, State.setPend_buf, State.setPend_h, State.compressBlock_h, State.compressBlock_buf,
        State.bufWrite_h, hblock, hdrop, hpend, Fin.val_zero, Nat.zero_add]
      rfl

/-- A legal UPDATE writes H, BUF and PEND as its bytes do, then LEN and PHASE (43_accumulator.md R94, R96). -/
theorem absorb_of_foldl {s : State} {bytes : List Byte} {hs : Hash} {buf : Vector Byte 64} {p : Fin 64}
    (h : bytes.foldl State.appendByte s = { s with h := hs, buf := buf, pend := p }) :
    s.absorb bytes =
      { s with h := hs, buf := buf, pend := p, len := s.len + BitVec.ofNat 64 bytes.length, phase := .accum } := by
  rw [State.absorb, h]; rfl

theorem absorb_len_toNat (s : State) (bytes : List Byte) :
    (s.absorb bytes).len.toNat = (s.len.toNat + bytes.length) % 2 ^ 64 := by
  rw [absorb_len, BitVec.toNat_add, BitVec.toNat_ofNat, Nat.add_mod_mod]

/-- Settles O15: the beat's bytes are written after the pending ones. -/
theorem updateBuffersBeat : Obligations.UpdateBuffersBeat := by
  unfold Obligations.UpdateBuffersBeat
  intro bytes s _ hp hlt
  have absorbed := absorb_of_foldl (foldl_appendByte_of_lt hlt)
  refine ⟨_, exec_update_of_isOpen ((isOpen_iff _).2 hp) bytes, ?_, ?_, absorb_len_toNat s bytes, fun j => ?_⟩
  · rw [absorbed]
  · rw [absorbed]
  · rw [absorbed]; exact overlay_getElem s.buf s.pend.val bytes j.isLt

/-- Settles O16: the block is the pending bytes with the beat's written after them, and what of the beat it does not hold is
written at its front. -/
theorem updateCompressesFullBlock : Obligations.UpdateCompressesFullBlock := by
  unfold Obligations.UpdateCompressesFullBlock
  intro bytes s block hlen hp hfill hblock
  have filled : overlay s.buf s.pend.val bytes = block := by
    refine Vector.ext fun j hj => ?_
    rw [overlay_getElem _ _ _ hj, show block[j] = _ from hblock ⟨j, hj⟩]
    by_cases h : j < s.pend.val
    · rw [if_pos h, if_neg (by omega)]; rfl
    · rw [if_neg h, if_pos (by omega)]
  have absorbed := absorb_of_foldl (foldl_appendByte_of_fills hfill (by omega))
  rw [filled] at absorbed
  refine ⟨_, exec_update_of_isOpen ((isOpen_iff _).2 hp) bytes, ?_, ?_, absorb_len_toNat s bytes, fun j => ?_⟩
  · rw [absorbed]
  · rw [absorbed]
  · rw [absorbed]
    have front : (0 ≤ j.val ∧ j.val < 0 + (bytes.drop (64 - s.pend.val)).length) ↔
        j.val < s.pend.val + bytes.length - 64 := by rw [List.length_drop]; omega
    have byte : (bytes.drop (64 - s.pend.val)).getD (j.val - 0) 0 = bytes.getD (64 - s.pend.val + j.val) 0 := by
      simp [List.getD_eq_getElem?_getD]
    refine (overlay_getElem block 0 _ j.isLt).trans ?_
    simp only [front, byte, Fin.getElem_fin]

/-! ### Chunk boundaries -/

theorem appendByte_addLen_setPhase (s : State) (n : Nat) (p : Phase) (b : Byte) :
    ((s.addLen n).setPhase p).appendByte b = ((s.appendByte b).addLen n).setPhase p := by
  by_cases h : s.pend.val + 1 = 64 <;> simp [State.appendByte, h] <;> rfl

theorem foldl_appendByte_addLen_setPhase (bytes : List Byte) (s : State) (n : Nat) (p : Phase) :
    bytes.foldl State.appendByte ((s.addLen n).setPhase p) =
      ((bytes.foldl State.appendByte s).addLen n).setPhase p := by
  induction bytes generalizing s with
  | nil => rfl
  | cons b bytes ih => rw [List.foldl_cons, appendByte_addLen_setPhase, ih, List.foldl_cons]

/-- Two beats are one beat of all their bytes (43_accumulator.md R98). -/
theorem absorb_absorb (s : State) (xs ys : List Byte) : (s.absorb xs).absorb ys = s.absorb (xs ++ ys) := by
  rw [State.absorb, State.absorb, foldl_appendByte_addLen_setPhase, State.absorb, List.foldl_append, List.length_append]
  simp only [State.addLen, State.setPhase, BitVec.add_assoc, ← BitVec.ofNat_add]

/-- Beats to an open session are one beat of all their bytes; with no beat the phase stays. -/
theorem runInstrs_updates {s : State} (ho : s.phase.isOpen = true) (bs : List (List Byte)) :
    runInstrs (bs.map .update) s =
      .next ((s.absorb bs.flatten).setPhase (if bs = [] then s.phase else .accum)) := by
  induction bs generalizing s with
  | nil => rw [List.flatten_nil, absorb_nil]; rfl
  | cons b bs ih =>
    rw [List.map_cons, runInstrs_cons_of_exec (exec_update_of_isOpen ho b), ih rfl, absorb_absorb, State.absorb_phase,
      ite_self, List.flatten_cons, if_neg (by nofun)]

theorem closeSession_setPhase (s : State) (p : Phase) : (s.setPhase p).closeSession = s.closeSession := by
  by_cases h : s.pend.val ≤ 55 <;> simp [State.closeSession, State.compressPadding, h] <;> rfl

/-- Settles O42: both sequences are the one beat of their bytes, whose phase is no part of the results. -/
theorem chunkBoundariesDoNotMatter : Obligations.ChunkBoundariesDoNotMatter := by
  unfold Obligations.ChunkBoundariesDoNotMatter
  intro s xs ys ho _ hbytes
  have stays_open (bs : List (List Byte)) :
      (if bs = [] then s.phase else Phase.accum).isOpen = true := by split <;> [exact ho; rfl]
  refine ⟨_, _, runInstrs_updates ho xs, runInstrs_updates ho ys, ?_⟩
  rw [hbytes]
  refine ⟨rfl, rfl, rfl, rfl, fun hx hy => ?_, _, _, exec_finalize_of_isOpen (stays_open xs),
    exec_finalize_of_isOpen (stays_open ys), ?_, rfl, rfl⟩
  · rw [if_neg hx, if_neg hy]
  · rw [closeSession_setPhase, closeSession_setPhase]

/-! ### The stale bytes of BUF -/

/-- The state with another buffer. -/
def State.withBuf (s : State) (buf : Vector Byte 64) : State := { s with buf := buf }

@[simp] theorem State.withBuf_pend (s : State) (buf : Vector Byte 64) : (s.withBuf buf).pend = s.pend := rfl

theorem sameButStale_withBuf_iff {s : State} {buf : Vector Byte 64} :
    s.sameButStale (s.withBuf buf) ↔ s.buf.toList.take s.pend.val = buf.toList.take s.pend.val :=
  ⟨fun ⟨_, pending, _⟩ => pending, fun pending => ⟨rfl, pending, rfl⟩⟩

/-- States that differ at most in stale bytes are one state with two buffers, whose pending bytes are the same. -/
theorem sameButStale_iff {s t : State} :
    s.sameButStale t ↔
      ∃ buf : Vector Byte 64, t = s.withBuf buf ∧ s.buf.toList.take s.pend.val = buf.toList.take s.pend.val := by
  constructor
  · rintro ⟨pend, pending, rest⟩
    exact ⟨t.buf, rest.symm, by rw [pending, pend]⟩
  · rintro ⟨buf, rfl, pending⟩
    exact sameButStale_withBuf_iff.2 pending

theorem sameButStale_refl (s : State) : s.sameButStale s := ⟨rfl, rfl, rfl⟩

theorem State.sameButStale.phase {s t : State} (h : s.sameButStale t) : t.phase = s.phase := by
  obtain ⟨buf, rfl, -⟩ := sameButStale_iff.1 h
  rfl

/-- An operation that keeps the buffer, whatever it holds, and keeps PEND or makes it 0, does not see the stale bytes. -/
theorem State.sameButStale.map {s t : State} (h : s.sameButStale t) (f : State → State)
    (hbuf : ∀ (u : State) (buf : Vector Byte 64), f (u.withBuf buf) = (f u).withBuf buf)
    (hpend : (f s).pend = s.pend ∨ (f s).pend = 0) : (f s).sameButStale (f t) := by
  obtain ⟨buf, rfl, pending⟩ := sameButStale_iff.1 h
  have kept : (f s).buf = s.buf := (congrArg State.buf (hbuf s s.buf) :)
  rw [hbuf, sameButStale_withBuf_iff, kept]
  rcases hpend with hp | hp <;> rw [hp]
  · exact pending
  · rfl

/-- A byte is written at PEND, and a block is compressed when no byte of it is stale (43_accumulator.md R94). -/
theorem State.sameButStale.appendByte {s t : State} (h : s.sameButStale t) (b : Byte) :
    (s.appendByte b).sameButStale (t.appendByte b) := by
  obtain ⟨buf, rfl, pending⟩ := sameButStale_iff.1 h
  have written : (s.buf.set s.pend.val b s.pend.isLt).toList.take (s.pend.val + 1) =
      (buf.set s.pend.val b s.pend.isLt).toList.take (s.pend.val + 1) := by
    rw [take_set_pend, take_set_pend, pending]
  by_cases hfull : s.pend.val + 1 = 64
  · have sameBlock : s.buf.set s.pend.val b s.pend.isLt = buf.set s.pend.val b s.pend.isLt := by
      rw [hfull, List.take_of_length_le (by simp), List.take_of_length_le (by simp)] at written
      exact Vector.toList_inj.1 written
    have sameState : (s.withBuf buf).bufWrite s.pend b = s.bufWrite s.pend b :=
      congrArg s.withBuf sameBlock.symm
    have sameResult : (s.withBuf buf).appendByte b = s.appendByte b := by
      rw [State.appendByte, State.appendByte, State.withBuf_pend, if_pos hfull, if_pos hfull, sameState]
    rw [sameResult]
    exact sameButStale_refl _
  · have hsucc : (s.pend + 1).val = s.pend.val + 1 := Fin.val_add_one_of_lt' (by omega)
    have rewritten : (s.withBuf buf).appendByte b =
        (s.appendByte b).withBuf (buf.set s.pend.val b s.pend.isLt) := by
      rw [State.appendByte, State.appendByte, State.withBuf_pend, if_neg hfull, if_neg hfull]; rfl
    rw [rewritten, sameButStale_withBuf_iff, State.appendByte, if_neg hfull, State.setPend_pend, State.setPend_buf, hsucc]
    exact written

theorem State.sameButStale.foldl_appendByte {s t : State} (h : s.sameButStale t) (bytes : List Byte) :
    (bytes.foldl State.appendByte s).sameButStale (bytes.foldl State.appendByte t) := by
  induction bytes generalizing s t with
  | nil => exact h
  | cons b bytes ih => exact ih (h.appendByte b)

theorem State.sameButStale.absorb {s t : State} (h : s.sameButStale t) (bytes : List Byte) :
    (s.absorb bytes).sameButStale (t.absorb bytes) :=
  (h.foldl_appendByte bytes).map (fun u => (u.addLen bytes.length).setPhase .accum) (fun _ _ => rfl) (.inl rfl)

/-- The padding is put after the pending bytes, over the stale ones (44_finalizer.md R103). -/
theorem paddedBlock_congr {buf buf' : Vector Byte 64} {p : Fin 64}
    (h : buf.toList.take p.val = buf'.toList.take p.val) : paddedBlock buf p = paddedBlock buf' p :=
  Vector.toList_inj.1 (by rw [paddedBlock_toList, paddedBlock_toList, h])

theorem State.sameButStale.compressPadding {s t : State} (h : s.sameButStale t) :
    t.compressPadding.h = s.compressPadding.h := by
  obtain ⟨buf, rfl, pending⟩ := sameButStale_iff.1 h
  have padded : paddedBlock (s.withBuf buf).buf s.pend = paddedBlock s.buf s.pend := (paddedBlock_congr pending).symm
  rw [State.compressPadding, State.compressPadding, State.withBuf_pend, padded]
  by_cases hp : s.pend.val ≤ 55
  · rw [if_pos hp, if_pos hp]; rfl
  · rw [if_neg hp, if_neg hp]; rfl

theorem State.sameButStale.closeSession {s t : State} (h : s.sameButStale t) :
    s.closeSession.sameButStale t.closeSession := by
  have hash := h.compressPadding
  obtain ⟨buf, rfl, -⟩ := sameButStale_iff.1 h
  rw [closeSession_eq, closeSession_eq, hash]
  exact ⟨rfl, rfl, rfl⟩

theorem State.sameButStale.raiseError {s t : State} (h : s.sameButStale t) (c : Cause) :
    (s.raiseError c).sameButStale (t.raiseError c) :=
  h.map (fun u => u.raiseError c) (fun _ _ => rfl) (.inl rfl)

theorem exec_sameButStale {s t : State} (h : s.sameButStale t) (i : Instr) :
    ∃ s' t', exec i s = .next s' ∧ exec i t = .next t' ∧ s'.sameButStale t' := by
  refine ⟨_, _, exec_eq i s, exec_eq i t, ?_⟩
  rw [h.phase]
  cases i with
  | nop => exact h
  | init => exact h.map State.openSession (fun _ _ => rfl) (.inr rfl)
  | update bytes =>
    dsimp only; split
    · exact h.absorb bytes
    · exact h.raiseError _
  | finalize =>
    dsimp only; split
    · exact h.closeSession
    · exact h.raiseError _

theorem execWord_sameButStale {s t : State} (h : s.sameButStale t) (w : Word64) :
    ∃ s' t', execWord w s = .next s' ∧ execWord w t = .next t' ∧ s'.sameButStale t' := by
  rcases hw : decode w with e | i
  · exact ⟨_, _, execWord_of_error hw s, execWord_of_error hw t, h.raiseError _⟩
  · rw [execWord_of_ok hw, execWord_of_ok hw]
    exact exec_sameButStale h i

theorem transact_sameButStale {s t : State} (h : s.sameButStale t) (w : Word64) :
    ∃ s' t', transact w s = .next s' ∧ transact w t = .next t' ∧ s'.sameButStale t' := by
  obtain ⟨s', t', hs, ht, h'⟩ :=
    execWord_sameButStale (h.map (fun u => u.accept w) (fun _ _ => rfl) (.inl rfl)) w
  exact ⟨s'.release, t'.release, congrArg (onNext State.release) hs, congrArg (onNext State.release) ht,
    h'.map State.release (fun _ _ => rfl) (.inl rfl)⟩

/-- Settles O38: the commands read BUF in the padding and in a full block only, both made of bytes that are not stale, and
the read port shows no byte of BUF. -/
theorem staleBytesAreNeverRead : Obligations.StaleBytesAreNeverRead := by
  unfold Obligations.StaleBytesAreNeverRead
  refine fun s t h => ⟨exec_sameButStale h, transact_sameButStale h, fun a => ?_⟩
  obtain ⟨buf, rfl, -⟩ := sameButStale_iff.1 h
  rfl

end Sys2Proof.Machine

namespace Sys2Proof.Machine

/-! ### FINALIZE in an open session -/

theorem block_ext {b b' : Block} (h : ∀ j : Fin 64, b[j] = b'[j]) : b = b' :=
  Vector.ext fun j hj => h ⟨j, hj⟩

/-- Byte `i` of the bit count, most significant first (44_finalizer.md R106). -/
theorem lengthField_getElem (len : Word64) {i : Nat} (hi : i < 8) :
    (lengthField len)[i] = BitVec.ofNat 8 (len.toNat * 8 % 2 ^ 64 / 2 ^ (56 - 8 * i)) := by
  apply BitVec.eq_of_toNat_eq
  rw [lengthField, be64bytes_getElem_toNat _ _ hi, BitVec.toNat_ofNat]
  exact congrArg (· / 2 ^ (56 - 8 * i) % 256) (BitVec.toNat_mul len 8)

/-- A block that ends with the bit count, byte by byte (44_finalizer.md R104). -/
theorem withLength_lengthField_getElem (b : Block) (len : Word64) (j : Fin 64) :
    (withLength b (lengthField len))[j] =
      if j.val < 56 then b[j] else BitVec.ofNat 8 (len.toNat * 8 % 2 ^ 64 / 2 ^ (504 - 8 * j.val)) := by
  split
  next hj => exact withLength_getElem_of_lt b _ j hj
  next hj =>
    rw [withLength_getElem_of_le b _ j (Nat.not_lt.1 hj), lengthField_getElem len (by omega),
      show 56 - 8 * (j.val - 56) = 504 - 8 * j.val by omega]

/-- FINALIZE with room for the bit count in the padded block (44_finalizer.md R104). -/
theorem compressPadding_h_of_le {s : State} (hp : s.pend.val ≤ 55) :
    s.compressPadding.h = compress s.h (withLength (paddedBlock s.buf s.pend) (lengthField s.len)) := by
  rw [State.compressPadding, if_pos hp]; rfl

/-- FINALIZE whose bit count goes into a second block (44_finalizer.md R105). -/
theorem compressPadding_h_of_lt {s : State} (hp : 55 < s.pend.val) :
    s.compressPadding.h =
      compress (compress s.h (paddedBlock s.buf s.pend)) (lengthBlock (lengthField s.len)) := by
  rw [State.compressPadding, if_neg (Nat.not_le.2 hp)]; rfl

/-- Settles O18: the block of the statement is the padded block with the bit count, where the offsets from 56 on lie behind
`0x80`. -/
theorem finalizeWithOneBlock : Obligations.FinalizeWithOneBlock := by
  unfold Obligations.FinalizeWithOneBlock
  intro s b1 hphase hp hb1
  have block : withLength (paddedBlock s.buf s.pend) (lengthField s.len) = b1 := by
    refine block_ext fun j => ?_
    rw [withLength_lengthField_getElem, paddedBlock_getElem, hb1]
    by_cases hj : j.val < 56
    · rw [if_pos hj, if_pos hj]
    · rw [if_neg hj, if_neg hj, if_neg (by omega), if_neg (by omega)]
  rw [exec_finalize_of_isOpen ((isOpen_iff _).2 hphase), closeSession_eq, compressPadding_h_of_le hp, block]

/-- Settles O19: the two blocks of the statement are the padded block and the block of the bit count. -/
theorem finalizeWithTwoBlocks : Obligations.FinalizeWithTwoBlocks := by
  unfold Obligations.FinalizeWithTwoBlocks
  intro s b1 b2 hphase hp hb1 hb2
  have firstBlock : paddedBlock s.buf s.pend = b1 := block_ext fun j => by rw [paddedBlock_getElem, hb1]
  have lastBlock : lengthBlock (lengthField s.len) = b2 := block_ext fun j => by
    rw [lengthBlock, withLength_lengthField_getElem, hb2, Fin.getElem_fin, Vector.getElem_replicate]
  rw [exec_finalize_of_isOpen ((isOpen_iff _).2 hphase), closeSession_eq, compressPadding_h_of_lt hp, firstBlock,
    lastBlock]

/-- The one block of an empty stream: `80 00 .. 00` (44_finalizer.md R113). -/
def emptyStreamBlock : Block := (Vector.replicate 64 0).set 0 0x80

theorem emptyStreamBlock_getElem : ∀ j : Fin 64, emptyStreamBlock[j] = if j.val = 0 then 0x80 else 0 := by decide

theorem compress_emptyStreamBlock : compress initialHash emptyStreamBlock =
    #v[0xe3b0c442, 0x98fc1c14, 0x9afbf4c8, 0x996fb924, 0x27ae41e4, 0x649b934c, 0xa495991b, 0x7852b855] := by decide +kernel

/-- FINALIZE of a stream of no byte compresses that block from IV (44_finalizer.md R113). -/
theorem exec_finalize_of_empty {s : State} (hphase : s.phase = .fresh ∨ s.phase = .accum) (hh : s.h = initialHash)
    (hp : s.pend = 0) (hl : s.len = 0) :
    exec .finalize s = .next { s with
      h := compress initialHash emptyStreamBlock, digest := compress initialHash emptyStreamBlock
      dv := true, pend := 0, phase := .final } := by
  rw [← hh]
  refine finalizeWithOneBlock s emptyStreamBlock hphase (by simp [hp]) fun j => ?_
  rw [emptyStreamBlock_getElem, hp, hl]
  by_cases hj : j = 0
  · simp [hj]
  · simp [hj]

/-- Settles O20: the padded block of no byte has a bit count of zero, and its compression from IV is computed. -/
theorem emptyStreamDigest : Obligations.EmptyStreamDigest := by
  unfold Obligations.EmptyStreamDigest
  intro s hphase hh hp hl
  refine ⟨_, exec_finalize_of_empty hphase hh hp hl, rfl, rfl, fun b hb => ?_, compress_emptyStreamBlock⟩
  have block : emptyStreamBlock = b := block_ext fun j => by rw [emptyStreamBlock_getElem, hb]
  exact congrArg (compress initialHash) block

/-! ### The shape of the padded message -/

/-- What the padding puts after a message of `n` bytes: `0x80`, zeros and the bit count (44_finalizer.md R103, R106). -/
def messagePadding (n : Nat) : List Byte :=
  0x80 :: (List.replicate (zeroFill n) 0 ++ (lengthField (BitVec.ofNat 64 n)).toList)

theorem padMessage_eq (m : List Byte) : padMessage m = m ++ messagePadding m.length := by
  rw [padMessage, messagePadding, lengthField_ofNat, List.append_assoc, List.append_assoc, List.singleton_append]

theorem padMessage_getD_add (m : List Byte) (k : Nat) :
    (padMessage m).getD (m.length + k) 0 = (messagePadding m.length).getD k 0 := by
  rw [padMessage_eq, List.getD_append_right _ _ _ _ (Nat.le_add_right ..), Nat.add_sub_cancel_left]

theorem messagePadding_getD_zero {n k : Nat} (hk : k < zeroFill n) : (messagePadding n).getD (k + 1) 0 = 0 := by
  rw [messagePadding, List.getD_cons_succ, List.getD_append _ _ _ _ (by simpa using hk), List.getD_replicate _ hk]

theorem messagePadding_getD_lengthField (n : Nat) {k : Nat} (hk : k < 8) :
    (messagePadding n).getD (zeroFill n + k + 1) 0 = (lengthField (BitVec.ofNat 64 n))[k] := by
  rw [messagePadding, List.getD_cons_succ, List.getD_append_right _ _ _ _ (by simp), List.length_replicate,
    Nat.add_sub_cancel_left, List.getD_eq_getElem _ _ (by simpa using hk), Vector.getElem_toList]

/-- Settles O45: the length from the number of filling zeros, the bytes by the part of the padding they lie in. -/
theorem paddedMessageShape : Obligations.PaddedMessageShape := by
  unfold Obligations.PaddedMessageShape
  intro m
  have hlen := padMessage_length m
  refine ⟨?length, ?message, ?marker, fun j hj hend => ?zeros, fun k hk => ?bitCount⟩
  case length => rw [hlen, zeroFill]; split <;> omega
  case message => rw [padMessage_eq, List.take_left]
  case marker => exact padMessage_getD_add m 0
  case zeros =>
    obtain ⟨i, rfl⟩ := Nat.exists_eq_add_of_lt hj
    exact (padMessage_getD_add m (i + 1)).trans (messagePadding_getD_zero (by omega))
  case bitCount =>
    rw [show (padMessage m).length - 8 + k = m.length + (zeroFill m.length + k + 1) by omega,
      padMessage_getD_add, messagePadding_getD_lengthField _ hk, lengthField_getElem _ hk, BitVec.toNat_ofNat,
      BitVec.toNat_ofNat, Nat.mod_mul_mod]

end Sys2Proof.Machine

namespace Sys2Proof.Machine

/-! ### A run of words from reset -/

/-- Every word keeps the session held and the invariant, and so does a run of them. -/
theorem runWords_holds_inv {s : State} {σ : Session} (hheld : s.Holds σ) (hinv : s.Inv) (ws : List Word64) :
    ∃ t, runWords ws s = .next t ∧ t.Holds (ws.foldl (fun σ w => σ.after (decode w)) σ) ∧ t.Inv := by
  induction ws generalizing s σ with
  | nil => exact ⟨s, rfl, hheld, hinv⟩
  | cons w ws ih =>
    obtain ⟨u, hu, -, huheld⟩ := transact_holds hheld w
    have huinv : u.Inv := completeWord_inv (s := s.accept w) (hinv.withPort nofun) nofun hu
    rw [runWords_cons_of_transact hu]
    exact ih huheld huinv

/-- Settles O48: after reset the core holds the session of no word, so it holds the run's session at the end, and the invariant
has DV 1 exactly in FINAL. -/
theorem runDigestIsOfDeliveredStream : Obligations.RunDigestIsOfDeliveredStream := by
  unfold Obligations.RunDigestIsOfDeliveredStream
  intro ws
  have hreset : State.reset.Holds ⟨.idle, []⟩ := holds_of_phase rfl rfl nofun
  obtain ⟨t, hrun, hheld, hinv⟩ := runWords_holds_inv hreset resetHasInvariant ws
  refine ⟨t, hrun, hheld.phase, hinv.digestValid, fun hdigest hlen => ?_⟩
  have hfinal : t.phase = .final := by
    simp only [State.producesDigest, Bool.and_eq_true, decide_eq_true_eq] at hdigest
    exact hdigest.1
  exact (hheld.digested (hheld.phase.symm.trans hfinal)).2 hlen

/-! ### Every step completes -/

theorem completeWord_total (w : Word64) (s : State) : ∃ t, completeWord w s = .next t := by
  obtain ⟨u, hu⟩ := execWord_total w s
  exact ⟨u.release, congrArg (onNext State.release) hu⟩

theorem settle_total (s : State) : ∃ t, settle s = .next t := by
  unfold settle
  split
  · exact ⟨s, rfl⟩
  · exact completeWord_total _ s
  · exact ⟨s.release, rfl⟩

theorem step_total (s : State) : ∃ t, step s = .next t := by
  unfold step hostStep
  split
  · exact settle_total s
  · exact settle_total _
  · exact ⟨_, rfl⟩
  · split
    · exact completeWord_total _ _
    · exact settle_total s
  · split
    · exact ⟨_, rfl⟩
    · exact settle_total s

/-- Settles O29: a step settles the port, begins a reset, runs a word or accepts one, and each of these answers a next state. -/
theorem everyStepCompletes : Obligations.EveryStepCompletes := by
  unfold Obligations.EveryStepCompletes
  exact ⟨step_total, fun i s => ⟨_, exec_eq i s⟩⟩

/-! ### Leaving ERROR -/

theorem transact_of_nop {w : Word64} (hw : decode w = .ok .nop) {s : State} (hp : s.port = .ready) :
    transact w s = .next s := by
  rw [transact_of_ok hw, exec_eq, onNext_next, accept_release hp]

/-- Settles O25: in the phase table's ERROR row, INIT gives FRESH, NOP keeps the phase, and every other word gives ERROR. -/
theorem onlyInitLeavesError : Obligations.OnlyInitLeavesError := by
  unfold Obligations.OnlyInitLeavesError
  intro s w hp herror
  obtain ⟨t, ht, hphase⟩ := phaseFollowsTransitionTable s w hp
  refine ⟨t, ht, ?_, fun hw => ?_⟩
  · rw [hphase, herror]
    rcases decode w with e | _ | _ | bytes | _ <;> simp
  · rw [transact_of_nop hw hp] at ht
    cases ht
    rfl

/-! ### Reset -/

theorem step_of_reset {s : State} {rest : List HostInput} (hh : s.host = .reset :: rest) :
    step s = .next (s.setHost rest).assertReset := by
  simp [step, hostStep, hh]

/-- An idle cycle ends a reset (70_reset_and_hazards.md R136). -/
theorem step_of_wait_inReset {s : State} {rest : List HostInput} (hp : s.port = .inReset) (hh : s.host = .wait :: rest) :
    step s = .next (s.setHost rest).release := by
  simp [step, hostStep, settle, hh, hp]

/-- A word presented in reset is held while the reset ends (70_reset_and_hazards.md R136, R141). -/
theorem step_of_command_inReset {s : State} {w : Word64} {rest : List HostInput} (hp : s.port = .inReset)
    (hh : s.host = .command w :: rest) : step s = .next s.release := by
  simp [step, hostStep, settle, State.cmdReady, hh, hp]

/-- The state when a reset has ended differs from the reset state in the model's own fields only. -/
theorem assertReset_setHost_release (s : State) (hs : List HostInput) :
    (s.assertReset.setHost hs).release = { State.reset with host := hs, freeIx := s.freeIx + 1 } := rfl

/-- Settles O32: the assertion of reset writes the reset values, and the step that ends it moves the port and the host's list
only. -/
theorem resetAbandonsEverything : Obligations.ResetAbandonsEverything := by
  unfold Obligations.ResetAbandonsEverything
  intro s rest hh
  refine ⟨(s.setHost rest).assertReset, step_of_reset hh, rfl, rfl, fun hs => ?_⟩
  refine ⟨_, step_of_wait_inReset rfl rfl, assertReset_setHost_release _ hs, rfl, ?_, fun w => ?_⟩
  · exact (rdData_of_ne_inReset (by simp) 0).trans (show State.reset.status = 0 by decide)
  · exact ⟨_, step_of_command_inReset rfl rfl, assertReset_setHost_release _ (.command w :: hs)⟩

/-! ### Error entry by misuse -/

theorem exec_finalize_of_not_isOpen {s : State} (ho : s.phase.isOpen = false) :
    exec .finalize s = .next (s.raiseError (finalizeMisuse s.phase)) := by
  rw [exec_eq]; exact congrArg Host.Outcome.next (if_neg (by simp [ho]))

/-- A misuse cause sets ERR_MISUSE and keeps ERR_ILLEGAL (60_exceptions.md R121). -/
theorem raiseError_of_isMisuse (s : State) {c : Cause} (hc : c.isMisuse = true) :
    s.raiseError c = { s with
      errMisuse := true, cause := if s.cause = .none then c else s.cause, phase := .error, dv := false } := by
  have hillegal : c.isIllegal = false := by revert hc; cases c <;> decide
  simp [State.raiseError, hc, hillegal]

/-- Settles O22: outside an open session the instruction raises the misuse cause of its phase, which is the cause with the
phase's code. -/
theorem misuseEntersError : Obligations.MisuseEntersError := by
  unfold Obligations.MisuseEntersError
  rintro s c t rfl
  refine ⟨fun hp hc bytes => ?updateInFinal, fun hp hc => ?finalizeInFinal, fun hp hc => ?noSession⟩
  case updateInFinal =>
    obtain rfl : c = .updateAfterFinalize := Cause.code_injective hc
    rw [exec_update_of_not_isOpen (by rw [hp]; rfl), hp]
    exact congrArg Host.Outcome.next (raiseError_of_isMisuse s rfl)
  case finalizeInFinal =>
    obtain rfl : c = .finalizeTwice := Cause.code_injective hc
    rw [exec_finalize_of_not_isOpen (by rw [hp]; rfl), hp]
    exact congrArg Host.Outcome.next (raiseError_of_isMisuse s rfl)
  case noSession =>
    obtain rfl : c = .noSession := Cause.code_injective hc
    have hclosed : s.phase.isOpen = false := by rcases hp with hp | hp <;> rw [hp] <;> rfl
    have hfinal : s.phase ≠ .final := by rcases hp with hp | hp <;> rw [hp] <;> nofun
    rw [exec_finalize_of_not_isOpen hclosed, finalizeMisuse, if_neg hfinal, raiseError_of_isMisuse s rfl]
    refine ⟨rfl, fun bytes => ?_⟩
    rw [exec_update_of_not_isOpen hclosed, updateMisuse, if_neg hfinal, raiseError_of_isMisuse s rfl]

end Sys2Proof.Machine

namespace Sys2Proof.Machine

/-! ### A word held while the core is busy, and a host that does nothing -/

/-- The completion of the word in execution frees the port and takes nothing from the host's list (10_state.md R33). -/
theorem completeWord_port_host {w : Word64} {s t : State} (h : completeWord w s = .next t) :
    t.port = .ready ∧ t.host = s.host := by
  obtain ⟨u, hu, rfl⟩ := completeWord_next h
  obtain ⟨-, hhost, -⟩ := execWord_port hu
  exact ⟨rfl, hhost⟩

/-- Settles O31: a step with BUSY 1 completes the running word and leaves the list, so the step after it finds the held word
at a ready port. -/
theorem heldWordIsTakenOnce : Obligations.HeldWordIsTakenOnce := by
  unfold Obligations.HeldWordIsTakenOnce
  intro s w v rest hp hh
  have completes : step s = completeWord v s := by
    have held : hostAfterBusy s.host = s.host := by rw [hh]; rfl
    rw [step_of_executing hp (by simp [hh]), held]
    rfl
  obtain ⟨t, ht⟩ := completeWord_total v s
  obtain ⟨hready, hheld⟩ := completeWord_port_host ht
  rw [hh] at hheld
  obtain ⟨u, hu, huready, huhost⟩ := transact_next w (t.setHost rest)
  exact ⟨t, u, completes.trans ht, ht, hready, hheld, (step_of_command hready hheld).trans hu, huready, huhost, hu⟩

/-- Time at a ready port changes nothing (70_reset_and_hazards.md R145). -/
theorem settle_of_ready {s : State} (hp : s.port = .ready) : settle s = .next s := by
  rw [settle, hp]

/-- Settles O33: a step without a word or a reset settles the port, and an idle event is first taken from the list. -/
theorem idleCyclesChangeNothing : Obligations.IdleCyclesChangeNothing := by
  unfold Obligations.IdleCyclesChangeNothing
  refine fun s hp => ⟨fun hh => ?noEvent, fun rest hh => ?idleEvent⟩
  case noEvent =>
    rw [step, hostStep, hh]
    exact settle_of_ready hp
  case idleEvent =>
    rw [step, hostStep, hh]
    exact settle_of_ready (s := s.setHost rest) hp

end Sys2Proof.Machine
